-- ==== Sys2Proof/Word.lean ====
section
/-! DEFINITION. The data widths of the miniCAN CORE: a byte (00_scope.md R7, R8), the 4-bit payload index
(10_state.md R26 to R28) and the eight-byte payload buffer (10_state.md R35). -/

namespace Sys2Proof

/-- A byte: 8 bits, bit 7 the most significant, always read as unsigned (00_scope.md R8). -/
abbrev Byte := BitVec 8

/-- A payload index register: 4 bits wide, holding 0 to 8 (10_state.md R27). -/
abbrev Index := BitVec 4

/-- The eight entries of a payload buffer or of the frame port's data, entry `i` in field `d<i>`
(10_state.md R23, R35). -/
structure Payload where
  d0 : Byte
  d1 : Byte
  d2 : Byte
  d3 : Byte
  d4 : Byte
  d5 : Byte
  d6 : Byte
  d7 : Byte
  deriving DecidableEq, Repr, Inhabited

end Sys2Proof
end

