-- ==== Sys2Proof/Machine/Environment.lean ====
section
/-! DEFINITION. What the environment can do (00_scope.md R12): the input ports of an edge (10_state.md R21 to R24), the
transport's pace, and the statements of a host script (30_encoding.md R93). -/

namespace Sys2Proof.Machine

/-- The host's input ports: `rst` (10_state.md R21), the commands of `CRCU` (R22), the frame port of `ENC` (R23)
and the command of `DEC` (R24). -/
structure HostPorts where
  rst       : Bool
  crcClr    : Bool
  crcEn     : Bool
  crcDin    : Byte
  encValid  : Bool
  encId     : Byte
  encLen    : Byte
  encDataIn : Payload
  decStart  : Bool
  deriving DecidableEq, Repr, Inhabited

/-- Every input port of the block at one edge (10_state.md R21 to R24). -/
structure Ports where
  host    : HostPorts
  txReady : Bool
  rxValid : Bool
  rxData  : Byte
  deriving DecidableEq, Repr

/-- The transport's side of one edge of a script: the bytes that have arrived on its `rx` stream since the edge before;
whether it accepts on `tx` and offers on `rx`; the byte standing on `rx_data` while nothing is offered; and whether, at an edge with `rst = 1`, it counts the byte it sees taken on `rx` (`resetGives`)
and the byte it sees offered on `tx` (`resetTakes`) (70_reset_and_hazards.md R232, R247). -/
structure Pace where
  arrives    : List Byte
  txReady    : Bool
  rxOffer    : Bool
  rxIdle     : Byte
  resetGives : Bool
  resetTakes : Bool
  deriving DecidableEq, Repr, Inhabited

/-- A transport that accepts every `tx` byte at once and offers every byte it has (95_test_vectors.md section 6). DESIGN
CHOICE: that at an edge with `rst = 1` it counts the transfers it sees, as 70_reset_and_hazards.md R247 says such a
transport will (R232 and V-R4: it may); log entry 6. -/
def Pace.ready : Pace :=
  { arrives := [], txReady := true, rxOffer := true, rxIdle := 0x00, resetGives := true, resetTakes := true }

/-- The transport's pace for good. -/
inductive PaceAfter where
  /-- Every further edge of a script goes at the pace `p`; one that never accepts or never offers is an endless stall. -/
  | always (p : Pace)
  /-- Anything: the next edge goes at the free value `Config.laterPace n` (20_memory.md R63). -/
  | free (n : Nat)
  deriving DecidableEq, Repr

/-- What the environment does at one edge: the host's ports, the transport's side as in `Pace`, and whether `tx` is
wired to `rx` (the `loopback` of 30_encoding.md R93). Every field is the environment's to choose
(92_eei_decisions.md D18). -/
structure Edge where
  host       : HostPorts
  txReady    : Bool
  rxOffer    : Bool
  rxIdle     : Byte
  loopback   : Bool
  resetGives : Bool
  resetTakes : Bool
  deriving DecidableEq, Repr, Inhabited

/-- A statement of a host script (30_encoding.md R93). `encAwait` and `decAwait` are the waiting halves of `enc.send`
and `dec.try`; `sendAndTry` is those two issued together (95_test_vectors.md P1). The pseudo-operations `crc.of` and
`withChecksum` are expansions, in Script.lean. -/
inductive Stmt where
  | reset
  | crcClr
  | crcPut (b : Byte)
  | crcGet
  | encSend (id len : Byte) (data : List Byte)
  | encAwait
  | txExpect (bs : List Byte)
  | rxFeed (bs : List Byte)
  | decTry
  | decAwait
  | decAll
  | sendAndTry (id len : Byte) (data : List Byte)
  | loopback
  deriving DecidableEq, Repr

/-- One thing the environment does next. -/
inductive Stim where
  /-- One clock edge. -/
  | edge (e : Edge)
  /-- The transport gives the decoder the bytes of its `rx` stream until the attempt ends or the stream is empty:
  the reading half of one blocking call of `decode` (42_decoder.md R160), and how a whole frame is executed. -/
  | recv
  /-- The transport appends these bytes to the `rx` stream; no edge. -/
  | feed (bs : List Byte)
  /-- The host is at this statement of its script (30_encoding.md R93). -/
  | stmt (st : Stmt)
  deriving DecidableEq, Repr, Inhabited

/-- What the environment does once its plan is done. -/
inductive After where
  /-- Nothing: every further edge has every input at 0. -/
  | quiet
  /-- It goes on for ever, with anything: next is the free value `Config.laterStim n` (20_memory.md R63,
  00_scope.md R12). -/
  | free (n : Nat)
  deriving DecidableEq, Repr

end Sys2Proof.Machine
end

