-- ==== Sys2Proof/Config.lean ====
section
/-! DEFINITION. The parameters of 00_scope.md R7, all fixed by the spec, and the model's three free values.
`STATE_CODES`, which R7 leaves open, is not here: no port shows a state code and no rule reads one
(30_encoding.md R88), so the state registers are inductive types and no code is ever needed. -/

namespace Sys2Proof

/-- `START`, the start marker (00_scope.md R7; 30_encoding.md R84). -/
abbrev Config.start : Byte := 0xAA

/-- `POLY`, the CRC polynomial constant (00_scope.md R7; 40_crc8.md R110). -/
abbrev Config.poly : Byte := 0x07

/-- `CRC_INIT`, the CRC's initial register value (00_scope.md R7; 40_crc8.md R112). -/
abbrev Config.crcInit : Byte := 0x00

/-- `MAX_LEN`, the payload capacity of a frame in bytes (00_scope.md R7). -/
abbrev Config.maxLen : Nat := 8

/-- `MIN_FRAME`, the shortest frame on the wire in bytes (00_scope.md R7). -/
abbrev Config.minFrame : Nat := 4

/-- `MAX_FRAME`, the longest frame on the wire in bytes (00_scope.md R7). -/
abbrev Config.maxFrame : Nat := 12

/-- FREE VALUE. The byte a payload buffer gives at an index of 8 to 15. 10_state.md R27 says the index is always
0 to 7 when a buffer is read, so no run reaches it and the spec gives no value. DESIGN CHOICE, safe: log entry 4. -/
opaque Config.bufferBeyond : Index → Byte

/-- FREE VALUE. What an environment that goes on for ever does at its `n`-th act after the plan: any edge, any bytes, any
statement, so that the `rx` stream is endless and arbitrary (20_memory.md R63; 92_eei_decisions.md D18). DESIGN CHOICE,
safe: log entry 1. -/
opaque Config.laterStim : Nat → Machine.Stim

/-- FREE VALUE. The transport's side of the `n`-th edge of a script after the listed ones: it accepts, offers and receives
as it likes, and may stall for ever (20_memory.md R63; 30_encoding.md R93). DESIGN CHOICE, safe: log entry 10. -/
opaque Config.laterPace : Nat → Machine.Pace

end Sys2Proof
end

