-- ==== Sys2Proof/Machine/Crc8.lean ====
section
/-! DEFINITION. The CRC-8/0x07 functions: one shift step, one byte, a sequence (40_crc8.md R110 to R112). -/

namespace Sys2Proof.Machine

/-- `crc8_bit`: shift left by one, dropping bit 7, then exclusive-or with `POLY` when bit 7 was set BEFORE the
shift (40_crc8.md R110). -/
def crc8Bit (c : Byte) : Byte :=
  if c.getLsbD 7 then (c <<< 1) ^^^ Config.poly else c <<< 1

/-- `crc8_update`: exclusive-or the whole byte in, then exactly eight shift steps (40_crc8.md R111). -/
def crc8Update (c b : Byte) : Byte :=
  crc8Bit (crc8Bit (crc8Bit (crc8Bit (crc8Bit (crc8Bit (crc8Bit (crc8Bit (c ^^^ b))))))))

/-- `crc8`: the left fold of `crc8_update` from `CRC_INIT`, first byte first, no final exclusive-or
(40_crc8.md R112). -/
def crc8 (bs : List Byte) : Byte :=
  bs.foldl crc8Update Config.crcInit

/-- The table `T` of 40_crc8.md R116: one byte folded into a zero register. -/
def crc8T (x : Byte) : Byte :=
  crc8Update 0x00 x

end Sys2Proof.Machine
end

