-- ==== Sys2Proof/Machine/State.lean ====
section
/-! DEFINITION. The machine's state as plain data: the registers of the three units (10_state.md R20, R25, R26,
R28), and beside them what the spec places outside the block and `step` has no argument for: the environment
(host commands to come, the two byte streams on the transport's side) and a record of what has moved. No
operation reads the record. -/

namespace Sys2Proof.Machine

/-- The six values of `enc_state` (10_state.md R29). No binary codes: 30_encoding.md R88. -/
inductive EncState where
  | encIdle | encStart | encId | encLen | encData | encCrc
  deriving DecidableEq, Repr

/-- The eight values of `dec_state` (10_state.md R30). No binary codes: 30_encoding.md R88. -/
inductive DecState where
  | decIdle | awaitStart | readId | readLen | readData | readChecksum | accepted | rejected
  deriving DecidableEq, Repr

/-- The three failure kinds (00_scope.md R10; 60_exceptions.md R200). -/
inductive DecodeError where
  | badStartByte | lengthOutOfRange | checksumMismatch
  deriving DecidableEq, Repr

/-- A frame: `id` and the meaningful payload bytes, at most 8 of them, so a longer frame cannot be written
(00_scope.md R10; 41_encoder.md R132). `length` is the number of those bytes and the checksum is derived, so neither is
a field. -/
structure Frame where
  id    : Byte
  data  : List Byte
  short : data.length ≤ Config.maxLen := by exact Nat.le_of_ble_eq_true rfl
  deriving DecidableEq, Repr

/-- The result of one decode attempt (00_scope.md R10). -/
inductive Result where
  | ok (f : Frame)
  | err (e : DecodeError)
  deriving DecidableEq, Repr

/-- The register of `CRCU` (10_state.md R25). -/
structure Crcu where
  crcQ : Byte
  deriving DecidableEq, Repr

/-- The registers of `ENC` (10_state.md R26). -/
structure Enc where
  encState : EncState
  encIdR   : Byte
  encLenR  : Byte
  encDataR : Payload
  encIdx   : Index
  encCrc   : Byte
  encFault : Bool
  deriving DecidableEq, Repr

/-- The registers of `DEC` (10_state.md R28). `dec_err_r` is held by name: `none` is code 0 and
`some e` the code of `e`; Flags.lean gives the 2-bit codes of 30_encoding.md R87. -/
structure Dec where
  decState : DecState
  decErrR  : Option DecodeError
  decIdR   : Byte
  decLenR  : Byte
  decDataR : Payload
  decIdx   : Index
  decCrc   : Byte
  decCrcRx : Byte
  deriving DecidableEq, Repr

/-- What a statement of a host script has read (30_encoding.md R93): `crc.get -> v`, `dec.try -> r`, and whether a
`tx.expect` found exactly its bytes. -/
inductive Answer where
  | value (v : Byte)
  | result (r : Result)
  | sent (asExpected : Bool)
  deriving DecidableEq, Repr

/-- The environment. THE MODEL'S OWN, not the block's state (10_state.md R20, R36). `stims`: what it does next; `after`:
what it does after that; `rxQueue`: the bytes of the `rx` stream not yet taken, head next; `txLine`: the bytes the
transport has accepted from `tx`; `pace`: the transport's side of the script's coming edges; `paceAfter`: its side of those
after the listed ones; `wired`: whether a script has connected `tx` to `rx`; `txSent`: the bytes that have fired on `tx`;
`txSeen`: how many of them an earlier `tx.expect` has looked at; `answers`: what the script has read. -/
structure Env where
  stims     : List Stim
  after     : After
  rxQueue   : List Byte
  txLine    : List Byte
  pace      : List Pace
  paceAfter : PaceAfter
  wired     : Bool
  txSent    : List Byte
  txSeen    : Nat
  answers   : List Answer
  deriving DecidableEq, Repr

/-- A record of what has moved. THE MODEL'S OWN: written by the operations, read by none. `crcFed`: the bytes folded
since the last CRC.CLR or RST (40_crc8.md R119). `loaded`, `txFired`: the frames loaded and the bytes fired on `tx`
since reset (41_encoder.md R143). `rxTaken`: the bytes taken since the last DEC.START (42_decoder.md R181).
`rxAll`, `results`: the bytes taken and the results of the ended attempts since reset (42_decoder.md R184). -/
structure History where
  crcFed  : List Byte
  loaded  : List Frame
  txFired : List Byte
  rxTaken : List Byte
  rxAll   : List Byte
  results : List Result
  deriving DecidableEq, Repr

/-- The whole state: the three disjoint register sets of 10_state.md R20, the environment and the record. -/
structure State where
  crcu : Crcu
  enc  : Enc
  dec  : Dec
  env  : Env
  hist : History
  deriving DecidableEq, Repr

/-- The ways a step can stop with a fault: none. Every failure the spec describes is a next state: the three decode
failures (60_exceptions.md R204) and EncLengthFault (R209), which sets the sticky `enc_fault`. Nobody raises a
`Fault`; being empty it is safe. -/
inductive Fault where
  deriving DecidableEq, Repr

/-- The ways a step can be refused. -/
inductive Refusal where
  /-- Raised by an arm of `exec` whose instruction has no meaning yet; no arm is in that case, so nobody raises it.
  It would be safe: the machine stops where the hardware goes on. -/
  | notModelled (mnemonic : String)
  deriving DecidableEq, Repr

/-- The registers of `CRCU` after an edge with `rst = 1` (10_state.md R37). -/
def Crcu.reset : Crcu := { crcQ := 0x00 }

/-- All eight payload entries `0x00` (10_state.md R37; 42_decoder.md R163). -/
def zeroPayload : Payload :=
  { d0 := 0x00, d1 := 0x00, d2 := 0x00, d3 := 0x00, d4 := 0x00, d5 := 0x00, d6 := 0x00, d7 := 0x00 }

/-- The registers of `ENC` after an edge with `rst = 1` (10_state.md R37). -/
def Enc.reset : Enc :=
  { encState := .encIdle, encIdR := 0x00, encLenR := 0x00, encDataR := zeroPayload, encIdx := 0, encCrc := 0x00,
    encFault := false }

/-- The registers of `DEC` after an edge with `rst = 1` (10_state.md R37). -/
def Dec.reset : Dec :=
  { decState := .decIdle, decErrR := none, decIdR := 0x00, decLenR := 0x00, decDataR := zeroPayload, decIdx := 0,
    decCrc := 0x00, decCrcRx := 0x00 }

/-- Nothing has moved. DESIGN CHOICE: the record is the model's own; log entry 2. -/
def History.empty : History :=
  { crcFed := [], loaded := [], txFired := [], rxTaken := [], rxAll := [], results := [] }

/-- The environment with nothing planned, nothing on either stream and a transport that is always ready. DESIGN CHOICE: log
entries 1 and 10. -/
def Env.empty : Env :=
  { stims := [], after := .quiet, rxQueue := [], txLine := [], pace := [], paceAfter := .always Pace.ready, wired := false,
    txSent := [], txSeen := 0, answers := [] }

/-- The machine right after reset (10_state.md R37; 70_reset_and_hazards.md R230). -/
def State.reset : State :=
  { crcu := Crcu.reset, enc := Enc.reset, dec := Dec.reset, env := Env.empty, hist := History.empty }

end Sys2Proof.Machine
end

