-- ==== Sys2Proof/Syntax.lean ====
section
/-! DEFINITION. The operations and wire formats of spec/opcode_table.json, one constructor for each mnemonic
(30_encoding.md R81, R92, R94). An operation's arguments are the port values its rule reads at the edge. A
frame format's arguments are the bytes of its letters `i`, `d` and `c`, in wire order. -/

namespace Sys2Proof

inductive Instr where
  /-- RST, synchronous reset (70_reset_and_hazards.md R230). -/
  | rst
  /-- CRC.CLR (40_crc8.md R118). -/
  | crcClr
  /-- CRC.UPD, with the byte on `crc_din` (40_crc8.md R119). -/
  | crcUpd (crcDin : Byte)
  /-- CRC.HOLD (40_crc8.md R120). -/
  | crcHold
  /-- ENC.LOAD, with the frame ports `enc_id`, `enc_len`, `enc_data_in` (41_encoder.md R133). -/
  | encLoad (encId encLen : Byte) (encDataIn : Payload)
  /-- ENC.LOAD_FAULT, with `enc_len` (41_encoder.md R134). -/
  | encLoadFault (encLen : Byte)
  /-- ENC.TX_START (41_encoder.md R135). -/
  | encTxStart
  /-- ENC.TX_ID (41_encoder.md R136). -/
  | encTxId
  /-- ENC.TX_LEN (41_encoder.md R137). -/
  | encTxLen
  /-- ENC.TX_DATA (41_encoder.md R138). -/
  | encTxData
  /-- ENC.TX_CRC (41_encoder.md R139). -/
  | encTxCrc
  /-- ENC.WAIT (41_encoder.md R140). -/
  | encWait
  /-- ENC.IDLE (41_encoder.md R141). -/
  | encIdle
  /-- DEC.START (42_decoder.md R163). -/
  | decStart
  /-- DEC.SOF_OK: the byte taken is `0xAA` (42_decoder.md R165). -/
  | decSofOk
  /-- DEC.SOF_BAD, with the byte taken (42_decoder.md R166). -/
  | decSofBad (b : Byte)
  /-- DEC.RD_ID, with the byte taken (42_decoder.md R167). -/
  | decRdId (b : Byte)
  /-- DEC.RD_LEN_ZERO: the byte taken is `0x00` (42_decoder.md R168). -/
  | decRdLenZero
  /-- DEC.RD_LEN_NZ, with the byte taken, 1 to 8 (42_decoder.md R169). -/
  | decRdLenNz (b : Byte)
  /-- DEC.RD_LEN_BAD, with the byte taken, 9 to 255 (42_decoder.md R170). -/
  | decRdLenBad (b : Byte)
  /-- DEC.RD_DATA, with the byte taken (42_decoder.md R171). -/
  | decRdData (b : Byte)
  /-- DEC.CRC_OK, with the byte taken (42_decoder.md R172). -/
  | decCrcOk (b : Byte)
  /-- DEC.CRC_BAD, with the byte taken (42_decoder.md R173). -/
  | decCrcBad (b : Byte)
  /-- DEC.WAIT (42_decoder.md R174). -/
  | decWait
  /-- DEC.HOLD (42_decoder.md R175). -/
  | decHold
  /-- FRAME.L0 on the wire (30_encoding.md R81). -/
  | frameL0 (i c : Byte)
  /-- FRAME.L1 on the wire. -/
  | frameL1 (i d0 c : Byte)
  /-- FRAME.L2 on the wire. -/
  | frameL2 (i d0 d1 c : Byte)
  /-- FRAME.L3 on the wire. -/
  | frameL3 (i d0 d1 d2 c : Byte)
  /-- FRAME.L4 on the wire. -/
  | frameL4 (i d0 d1 d2 d3 c : Byte)
  /-- FRAME.L5 on the wire. -/
  | frameL5 (i d0 d1 d2 d3 d4 c : Byte)
  /-- FRAME.L6 on the wire. -/
  | frameL6 (i d0 d1 d2 d3 d4 d5 c : Byte)
  /-- FRAME.L7 on the wire. -/
  | frameL7 (i d0 d1 d2 d3 d4 d5 d6 c : Byte)
  /-- FRAME.L8 on the wire. -/
  | frameL8 (i d0 d1 d2 d3 d4 d5 d6 d7 c : Byte)
  deriving DecidableEq, Repr

end Sys2Proof
end

