-- ==== Sys2Proof/WellFormed.lean ====
section
/-! DEFINITION. Which terms of `Instr` the opcode table has: the byte conditions of its operation rows
(30_encoding.md R90, R91) and, for a frame, the checksum that R81 says its letter `c` must be. A frame whose
`c` is another byte still has a meaning (the decoder takes its bytes and reports ChecksumMismatch). -/

namespace Sys2Proof

/-- The letter `c` of a frame is the checksum of its body before it: ID, LEN and DATA (30_encoding.md R81, R83). -/
def checksumMatches (i : Byte) (data : List Byte) (c : Byte) : Bool :=
  c == Machine.crc8 (i :: BitVec.ofNat 8 data.length :: data)

/-- The condition on its arguments that an operation's row, or a frame's format, states. -/
def Instr.wf : Instr → Bool
  | .rst => true
  | .crcClr => true
  | .crcUpd _ => true
  | .crcHold => true
  | .encLoad _ len _ => len.toNat ≤ Config.maxLen
  | .encLoadFault len => Config.maxLen < len.toNat
  | .encTxStart => true
  | .encTxId => true
  | .encTxLen => true
  | .encTxData => true
  | .encTxCrc => true
  | .encWait => true
  | .encIdle => true
  | .decStart => true
  | .decSofOk => true
  | .decSofBad b => b != Config.start
  | .decRdId _ => true
  | .decRdLenZero => true
  | .decRdLenNz b => 1 ≤ b.toNat && b.toNat ≤ Config.maxLen
  | .decRdLenBad b => Config.maxLen < b.toNat
  | .decRdData _ => true
  | .decCrcOk _ => true
  | .decCrcBad _ => true
  | .decWait => true
  | .decHold => true
  | .frameL0 i c => checksumMatches i [] c
  | .frameL1 i d0 c => checksumMatches i [d0] c
  | .frameL2 i d0 d1 c => checksumMatches i [d0, d1] c
  | .frameL3 i d0 d1 d2 c => checksumMatches i [d0, d1, d2] c
  | .frameL4 i d0 d1 d2 d3 c => checksumMatches i [d0, d1, d2, d3] c
  | .frameL5 i d0 d1 d2 d3 d4 c => checksumMatches i [d0, d1, d2, d3, d4] c
  | .frameL6 i d0 d1 d2 d3 d4 d5 c => checksumMatches i [d0, d1, d2, d3, d4, d5] c
  | .frameL7 i d0 d1 d2 d3 d4 d5 d6 c => checksumMatches i [d0, d1, d2, d3, d4, d5, d6] c
  | .frameL8 i d0 d1 d2 d3 d4 d5 d6 d7 c => checksumMatches i [d0, d1, d2, d3, d4, d5, d6, d7] c

end Sys2Proof
end

