-- ==== Sys2Proof/Decode.lean ====
section
/-! DEFINITION. Decoding on this hardware, and the encoders after it. An OPERATION is selected at an edge by `rst`, the
unit's state, its ports and, for the decoder, the byte offered (30_encoding.md R89 to R91; 40_crc8.md R118). A FRAME
is read from the bytes of the `rx` stream by its pattern (30_encoding.md R80 to R83). -/

namespace Sys2Proof

open Machine

/-- The mnemonic of an operation or format (30_encoding.md R81, R92). -/
def Instr.mnemonic : Instr → String
  | .rst => "RST"
  | .crcClr => "CRC.CLR"
  | .crcUpd _ => "CRC.UPD"
  | .crcHold => "CRC.HOLD"
  | .encLoad _ _ _ => "ENC.LOAD"
  | .encLoadFault _ => "ENC.LOAD_FAULT"
  | .encTxStart => "ENC.TX_START"
  | .encTxId => "ENC.TX_ID"
  | .encTxLen => "ENC.TX_LEN"
  | .encTxData => "ENC.TX_DATA"
  | .encTxCrc => "ENC.TX_CRC"
  | .encWait => "ENC.WAIT"
  | .encIdle => "ENC.IDLE"
  | .decStart => "DEC.START"
  | .decSofOk => "DEC.SOF_OK"
  | .decSofBad _ => "DEC.SOF_BAD"
  | .decRdId _ => "DEC.RD_ID"
  | .decRdLenZero => "DEC.RD_LEN_ZERO"
  | .decRdLenNz _ => "DEC.RD_LEN_NZ"
  | .decRdLenBad _ => "DEC.RD_LEN_BAD"
  | .decRdData _ => "DEC.RD_DATA"
  | .decCrcOk _ => "DEC.CRC_OK"
  | .decCrcBad _ => "DEC.CRC_BAD"
  | .decWait => "DEC.WAIT"
  | .decHold => "DEC.HOLD"
  | .frameL0 _ _ => "FRAME.L0"
  | .frameL1 _ _ _ => "FRAME.L1"
  | .frameL2 _ _ _ _ => "FRAME.L2"
  | .frameL3 _ _ _ _ _ => "FRAME.L3"
  | .frameL4 _ _ _ _ _ _ => "FRAME.L4"
  | .frameL5 _ _ _ _ _ _ _ => "FRAME.L5"
  | .frameL6 _ _ _ _ _ _ _ _ => "FRAME.L6"
  | .frameL7 _ _ _ _ _ _ _ _ _ => "FRAME.L7"
  | .frameL8 _ _ _ _ _ _ _ _ _ _ => "FRAME.L8"

/-! ### Selection of an operation -/

/-- `CRCU`, in priority order: clear, update, hold (40_crc8.md R118). -/
def selectCrcu (h : HostPorts) : Instr :=
  if h.crcClr then .crcClr else if h.crcEn then .crcUpd h.crcDin else .crcHold

/-- `ENC` (30_encoding.md R90). -/
def selectEnc (st : EncState) (p : Ports) : Instr :=
  match st with
  | .encIdle =>
    if p.host.encValid then
      if p.host.encLen.toNat ≤ Config.maxLen then .encLoad p.host.encId p.host.encLen p.host.encDataIn
      else .encLoadFault p.host.encLen
    else .encIdle
  | .encStart => if p.txReady then .encTxStart else .encWait
  | .encId => if p.txReady then .encTxId else .encWait
  | .encLen => if p.txReady then .encTxLen else .encWait
  | .encData => if p.txReady then .encTxData else .encWait
  | .encCrc => if p.txReady then .encTxCrc else .encWait

/-- The byte-taking operation of `DEC` in a reading state, for the byte `b` taken; outside the reading states no byte is
taken and the decoder holds (30_encoding.md R91). `crc` is the register `dec_crc`. -/
def selectDecByte (st : DecState) (crc b : Byte) : Instr :=
  match st with
  | .awaitStart => if b = Config.start then .decSofOk else .decSofBad b
  | .readId => .decRdId b
  | .readLen =>
    if b = 0x00 then .decRdLenZero else if b.toNat ≤ Config.maxLen then .decRdLenNz b else .decRdLenBad b
  | .readData => .decRdData b
  | .readChecksum => if b = crc then .decCrcOk b else .decCrcBad b
  | .decIdle => .decHold
  | .accepted => .decHold
  | .rejected => .decHold

/-- `DEC` (30_encoding.md R91). -/
def selectDec (st : DecState) (crc : Byte) (p : Ports) : Instr :=
  match st with
  | .decIdle => if p.host.decStart then .decStart else .decHold
  | .accepted => if p.host.decStart then .decStart else .decHold
  | .rejected => if p.host.decStart then .decStart else .decHold
  | .awaitStart => if p.rxValid then selectDecByte .awaitStart crc p.rxData else .decWait
  | .readId => if p.rxValid then selectDecByte .readId crc p.rxData else .decWait
  | .readLen => if p.rxValid then selectDecByte .readLen crc p.rxData else .decWait
  | .readData => if p.rxValid then selectDecByte .readData crc p.rxData else .decWait
  | .readChecksum => if p.rxValid then selectDecByte .readChecksum crc p.rxData else .decWait

/-- The operations performed at one edge, in the order CRCU, ENC, DEC; RST alone at a reset edge (30_encoding.md R89). -/
def selected (est : EncState) (dst : DecState) (crc : Byte) (p : Ports) : List Instr :=
  if p.host.rst then [.rst] else [selectCrcu p.host, selectEnc est p, selectDec dst crc p]

/-! ### The opcode table's own conditions, row by row -/

/-- The five reading states of `DEC` (10_state.md R30). -/
def Machine.DecState.reading (st : DecState) : Bool :=
  match st with
  | .awaitStart => true
  | .readId => true
  | .readLen => true
  | .readData => true
  | .readChecksum => true
  | .decIdle => false
  | .accepted => false
  | .rejected => false

/-- The "state" and "condition" columns of an operation's rows of spec/opcode_table.json (30_encoding.md R90, R91;
40_crc8.md R118). A frame format is no operation of an edge, so it never applies at one. -/
def Instr.applies (i : Instr) (est : EncState) (dst : DecState) (crc : Byte) (p : Ports) : Bool :=
  match i with
  | .rst => p.host.rst
  | .crcClr => !p.host.rst && p.host.crcClr
  | .crcUpd din => !p.host.rst && !p.host.crcClr && p.host.crcEn && p.host.crcDin == din
  | .crcHold => !p.host.rst && !p.host.crcClr && !p.host.crcEn
  | .encLoad id len d =>
    !p.host.rst && est == .encIdle && p.host.encValid && decide (len.toNat ≤ Config.maxLen) &&
      p.host.encId == id && p.host.encLen == len && p.host.encDataIn == d
  | .encLoadFault len =>
    !p.host.rst && est == .encIdle && p.host.encValid && decide (Config.maxLen < len.toNat) && p.host.encLen == len
  | .encTxStart => !p.host.rst && est == .encStart && p.txReady
  | .encTxId => !p.host.rst && est == .encId && p.txReady
  | .encTxLen => !p.host.rst && est == .encLen && p.txReady
  | .encTxData => !p.host.rst && est == .encData && p.txReady
  | .encTxCrc => !p.host.rst && est == .encCrc && p.txReady
  | .encWait => !p.host.rst && est != .encIdle && !p.txReady
  | .encIdle => !p.host.rst && est == .encIdle && !p.host.encValid
  | .decStart => !p.host.rst && !dst.reading && p.host.decStart
  | .decSofOk => !p.host.rst && dst == .awaitStart && p.rxValid && p.rxData == Config.start
  | .decSofBad b => !p.host.rst && dst == .awaitStart && p.rxValid && p.rxData == b && b != Config.start
  | .decRdId b => !p.host.rst && dst == .readId && p.rxValid && p.rxData == b
  | .decRdLenZero => !p.host.rst && dst == .readLen && p.rxValid && p.rxData == 0x00
  | .decRdLenNz b =>
    !p.host.rst && dst == .readLen && p.rxValid && p.rxData == b && decide (1 ≤ b.toNat) &&
      decide (b.toNat ≤ Config.maxLen)
  | .decRdLenBad b => !p.host.rst && dst == .readLen && p.rxValid && p.rxData == b && decide (9 ≤ b.toNat)
  | .decRdData b => !p.host.rst && dst == .readData && p.rxValid && p.rxData == b
  | .decCrcOk b => !p.host.rst && dst == .readChecksum && p.rxValid && p.rxData == b && b == crc
  | .decCrcBad b => !p.host.rst && dst == .readChecksum && p.rxValid && p.rxData == b && b != crc
  | .decWait => !p.host.rst && dst.reading && !p.rxValid
  | .decHold => !p.host.rst && !dst.reading && !p.host.decStart
  | .frameL0 _ _ => false
  | .frameL1 _ _ _ => false
  | .frameL2 _ _ _ _ => false
  | .frameL3 _ _ _ _ _ => false
  | .frameL4 _ _ _ _ _ _ => false
  | .frameL5 _ _ _ _ _ _ _ => false
  | .frameL6 _ _ _ _ _ _ _ _ => false
  | .frameL7 _ _ _ _ _ _ _ _ _ => false
  | .frameL8 _ _ _ _ _ _ _ _ _ _ => false

/-- A row of the opcode table whose byte matters: it applies when `b &&& mask = pattern` (30_encoding.md R94). -/
structure ByteRow where
  mnemonic : String
  pattern  : Byte
  mask     : Byte
  deriving DecidableEq, Repr

/-- Whether the row applies to the byte. -/
def ByteRow.matchesByte (r : ByteRow) (b : Byte) : Bool := b &&& r.mask == r.pattern

/-- The rows of `AwaitStart`: DEC.SOF_OK and the eight of DEC.SOF_BAD (30_encoding.md R94). -/
def awaitStartRows : List ByteRow :=
  [⟨"DEC.SOF_OK", 0xAA, 0xFF⟩, ⟨"DEC.SOF_BAD", 0x00, 0x80⟩, ⟨"DEC.SOF_BAD", 0xC0, 0xC0⟩, ⟨"DEC.SOF_BAD", 0x80, 0xE0⟩,
   ⟨"DEC.SOF_BAD", 0xB0, 0xF0⟩, ⟨"DEC.SOF_BAD", 0xA0, 0xF8⟩, ⟨"DEC.SOF_BAD", 0xAC, 0xFC⟩, ⟨"DEC.SOF_BAD", 0xA8, 0xFE⟩,
   ⟨"DEC.SOF_BAD", 0xAB, 0xFF⟩]

/-- The rows of `ReadLen`: DEC.RD_LEN_ZERO, the four of DEC.RD_LEN_NZ, the seven of DEC.RD_LEN_BAD. -/
def readLenRows : List ByteRow :=
  [⟨"DEC.RD_LEN_ZERO", 0x00, 0xFF⟩, ⟨"DEC.RD_LEN_NZ", 0x01, 0xFF⟩, ⟨"DEC.RD_LEN_NZ", 0x02, 0xFE⟩,
   ⟨"DEC.RD_LEN_NZ", 0x04, 0xFC⟩, ⟨"DEC.RD_LEN_NZ", 0x08, 0xFF⟩, ⟨"DEC.RD_LEN_BAD", 0x09, 0xFF⟩,
   ⟨"DEC.RD_LEN_BAD", 0x0A, 0xFE⟩, ⟨"DEC.RD_LEN_BAD", 0x0C, 0xFC⟩, ⟨"DEC.RD_LEN_BAD", 0x10, 0xF0⟩,
   ⟨"DEC.RD_LEN_BAD", 0x20, 0xE0⟩, ⟨"DEC.RD_LEN_BAD", 0x40, 0xC0⟩, ⟨"DEC.RD_LEN_BAD", 0x80, 0x80⟩]

/-! ### Frames on the wire -/

/-- Why bytes are no frame of any format. -/
inductive WireReject where
  /-- The byte at offset 0 is not `0xAA` (30_encoding.md R85). -/
  | badStartByte
  /-- The byte at offset 2 is above 8 (30_encoding.md R85). -/
  | lengthOutOfRange
  /-- The bytes end before the frame does: the reading state, and in `ReadData` the index, they end in. -/
  | truncated (st : DecState) (i : Nat)
  deriving DecidableEq, Repr

/-- What reading one frame from a stream gives: the frame and the rest of the stream, or the reason it is none. -/
inductive WireOut where
  | frame (i : Instr) (rest : List Byte)
  | reject (why : WireReject)
  deriving DecidableEq, Repr

/-- The format of 0 to 8 payload bytes (30_encoding.md R81). -/
def frameOf (i : Byte) (data : List Byte) (c : Byte) : Option Instr :=
  match data with
  | [] => some (.frameL0 i c)
  | [d0] => some (.frameL1 i d0 c)
  | [d0, d1] => some (.frameL2 i d0 d1 c)
  | [d0, d1, d2] => some (.frameL3 i d0 d1 d2 c)
  | [d0, d1, d2, d3] => some (.frameL4 i d0 d1 d2 d3 c)
  | [d0, d1, d2, d3, d4] => some (.frameL5 i d0 d1 d2 d3 d4 c)
  | [d0, d1, d2, d3, d4, d5] => some (.frameL6 i d0 d1 d2 d3 d4 d5 c)
  | [d0, d1, d2, d3, d4, d5, d6] => some (.frameL7 i d0 d1 d2 d3 d4 d5 d6 c)
  | [d0, d1, d2, d3, d4, d5, d6, d7] => some (.frameL8 i d0 d1 d2 d3 d4 d5 d6 d7 c)
  | _ => none

/-- What follows the LEN byte `len`: that many payload bytes, then the checksum byte, whatever its value
(30_encoding.md R82, R83). -/
def decodeBody (i len : Byte) (body : List Byte) : WireOut :=
  if body.length < len.toNat then .reject (.truncated .readData body.length)
  else
    match body.drop len.toNat with
    | [] => .reject (.truncated .readChecksum 0)
    | c :: rest =>
      match frameOf i (body.take len.toNat) c with
      | some f => .frame f rest
      | none => .reject .lengthOutOfRange

/-- Reads one frame from the head of a stream, purely positionally (30_encoding.md R80 to R83). The byte at the
checksum's offset is read as it is: whether it matches is `Instr.wf`. -/
def decodeWire (bs : List Byte) : WireOut :=
  match bs with
  | [] => .reject (.truncated .awaitStart 0)
  | b :: s =>
    if b = Config.start then
      match s with
      | [] => .reject (.truncated .readId 0)
      | _ :: [] => .reject (.truncated .readLen 0)
      | i :: len :: body => if len.toNat ≤ Config.maxLen then decodeBody i len body else .reject .lengthOutOfRange
    else .reject .badStartByte

/-! ### The encoders -/

/-- The bytes of a frame on the wire: START, ID, LEN, DATA, CRC (30_encoding.md R80). -/
def wireBytes (i : Byte) (data : List Byte) (c : Byte) : List Byte :=
  Config.start :: i :: BitVec.ofNat 8 data.length :: (data ++ [c])

/-- The bytes of an instruction: a frame's bytes on the wire (30_encoding.md R81); for an operation that takes a byte
from a port, that byte; for the others none (their table rows have mask `0x00`). -/
def encode : Instr → List Byte
  | .rst => []
  | .crcClr => []
  | .crcUpd din => [din]
  | .crcHold => []
  | .encLoad _ _ _ => []
  | .encLoadFault _ => []
  | .encTxStart => []
  | .encTxId => []
  | .encTxLen => []
  | .encTxData => []
  | .encTxCrc => []
  | .encWait => []
  | .encIdle => []
  | .decStart => []
  | .decSofOk => [Config.start]
  | .decSofBad b => [b]
  | .decRdId b => [b]
  | .decRdLenZero => [0x00]
  | .decRdLenNz b => [b]
  | .decRdLenBad b => [b]
  | .decRdData b => [b]
  | .decCrcOk b => [b]
  | .decCrcBad b => [b]
  | .decWait => []
  | .decHold => []
  | .frameL0 i c => wireBytes i [] c
  | .frameL1 i d0 c => wireBytes i [d0] c
  | .frameL2 i d0 d1 c => wireBytes i [d0, d1] c
  | .frameL3 i d0 d1 d2 c => wireBytes i [d0, d1, d2] c
  | .frameL4 i d0 d1 d2 d3 c => wireBytes i [d0, d1, d2, d3] c
  | .frameL5 i d0 d1 d2 d3 d4 c => wireBytes i [d0, d1, d2, d3, d4] c
  | .frameL6 i d0 d1 d2 d3 d4 d5 c => wireBytes i [d0, d1, d2, d3, d4, d5] c
  | .frameL7 i d0 d1 d2 d3 d4 d5 d6 c => wireBytes i [d0, d1, d2, d3, d4, d5, d6] c
  | .frameL8 i d0 d1 d2 d3 d4 d5 d6 d7 c => wireBytes i [d0, d1, d2, d3, d4, d5, d6, d7] c

/-- What a frame's bytes say: ID and payload, and the byte at the checksum's offset (30_encoding.md R83). -/
def Instr.frameParts : Instr → Option (Frame × Byte)
  | .rst => none
  | .crcClr => none
  | .crcUpd _ => none
  | .crcHold => none
  | .encLoad _ _ _ => none
  | .encLoadFault _ => none
  | .encTxStart => none
  | .encTxId => none
  | .encTxLen => none
  | .encTxData => none
  | .encTxCrc => none
  | .encWait => none
  | .encIdle => none
  | .decStart => none
  | .decSofOk => none
  | .decSofBad _ => none
  | .decRdId _ => none
  | .decRdLenZero => none
  | .decRdLenNz _ => none
  | .decRdLenBad _ => none
  | .decRdData _ => none
  | .decCrcOk _ => none
  | .decCrcBad _ => none
  | .decWait => none
  | .decHold => none
  | .frameL0 i c => some (.mk i [], c)
  | .frameL1 i d0 c => some (.mk i [d0], c)
  | .frameL2 i d0 d1 c => some (.mk i [d0, d1], c)
  | .frameL3 i d0 d1 d2 c => some (.mk i [d0, d1, d2], c)
  | .frameL4 i d0 d1 d2 d3 c => some (.mk i [d0, d1, d2, d3], c)
  | .frameL5 i d0 d1 d2 d3 d4 c => some (.mk i [d0, d1, d2, d3, d4], c)
  | .frameL6 i d0 d1 d2 d3 d4 d5 c => some (.mk i [d0, d1, d2, d3, d4, d5], c)
  | .frameL7 i d0 d1 d2 d3 d4 d5 d6 c => some (.mk i [d0, d1, d2, d3, d4, d5, d6], c)
  | .frameL8 i d0 d1 d2 d3 d4 d5 d6 d7 c => some (.mk i [d0, d1, d2, d3, d4, d5, d6, d7], c)

/-- Whether the term is a frame format, not an operation. -/
def Instr.isFrame (i : Instr) : Bool := i.frameParts.isSome

/-- The units an operation belongs to: RST to all, a frame to `DEC`, whose `rx` port its bytes cross (30_encoding.md
R92). -/
inductive BlockUnit where
  | all | crcu | enc | dec
  deriving DecidableEq, Repr

/-- The unit column of the opcode table (30_encoding.md R92). -/
def Instr.unit : Instr → BlockUnit
  | .rst => .all
  | .crcClr => .crcu
  | .crcUpd _ => .crcu
  | .crcHold => .crcu
  | .encLoad _ _ _ => .enc
  | .encLoadFault _ => .enc
  | .encTxStart => .enc
  | .encTxId => .enc
  | .encTxLen => .enc
  | .encTxData => .enc
  | .encTxCrc => .enc
  | .encWait => .enc
  | .encIdle => .enc
  | .decStart => .dec
  | .decSofOk => .dec
  | .decSofBad _ => .dec
  | .decRdId _ => .dec
  | .decRdLenZero => .dec
  | .decRdLenNz _ => .dec
  | .decRdLenBad _ => .dec
  | .decRdData _ => .dec
  | .decCrcOk _ => .dec
  | .decCrcBad _ => .dec
  | .decWait => .dec
  | .decHold => .dec
  | .frameL0 _ _ => .dec
  | .frameL1 _ _ _ => .dec
  | .frameL2 _ _ _ _ => .dec
  | .frameL3 _ _ _ _ _ => .dec
  | .frameL4 _ _ _ _ _ _ => .dec
  | .frameL5 _ _ _ _ _ _ _ => .dec
  | .frameL6 _ _ _ _ _ _ _ _ => .dec
  | .frameL7 _ _ _ _ _ _ _ _ _ => .dec
  | .frameL8 _ _ _ _ _ _ _ _ _ _ => .dec

/-- Every host port at 0. -/
def Machine.HostPorts.quiet : HostPorts :=
  { rst := false, crcClr := false, crcEn := false, crcDin := 0x00, encValid := false, encId := 0x00, encLen := 0x00,
    encDataIn := zeroPayload, decStart := false }

/-- Every input port at 0. -/
def Machine.Ports.quiet : Ports := { host := HostPorts.quiet, txReady := false, rxValid := false, rxData := 0x00 }

/-- The port values that select an operation in the states where its row applies, every other port at 0 (the "port
activity" of 30_encoding.md R93; 40_crc8.md R118; 30_encoding.md R90, R91). A frame drives no port by itself. -/
def Instr.drive : Instr → Ports
  | .rst => { Ports.quiet with host := { HostPorts.quiet with rst := true } }
  | .crcClr => { Ports.quiet with host := { HostPorts.quiet with crcClr := true } }
  | .crcUpd din => { Ports.quiet with host := { HostPorts.quiet with crcEn := true, crcDin := din } }
  | .crcHold => Ports.quiet
  | .encLoad id len d =>
    { Ports.quiet with host := { HostPorts.quiet with encValid := true, encId := id, encLen := len, encDataIn := d } }
  | .encLoadFault len => { Ports.quiet with host := { HostPorts.quiet with encValid := true, encLen := len } }
  | .encTxStart => { Ports.quiet with txReady := true }
  | .encTxId => { Ports.quiet with txReady := true }
  | .encTxLen => { Ports.quiet with txReady := true }
  | .encTxData => { Ports.quiet with txReady := true }
  | .encTxCrc => { Ports.quiet with txReady := true }
  | .encWait => Ports.quiet
  | .encIdle => Ports.quiet
  | .decStart => { Ports.quiet with host := { HostPorts.quiet with decStart := true } }
  | .decSofOk => { Ports.quiet with rxValid := true, rxData := Config.start }
  | .decSofBad b => { Ports.quiet with rxValid := true, rxData := b }
  | .decRdId b => { Ports.quiet with rxValid := true, rxData := b }
  | .decRdLenZero => { Ports.quiet with rxValid := true, rxData := 0x00 }
  | .decRdLenNz b => { Ports.quiet with rxValid := true, rxData := b }
  | .decRdLenBad b => { Ports.quiet with rxValid := true, rxData := b }
  | .decRdData b => { Ports.quiet with rxValid := true, rxData := b }
  | .decCrcOk b => { Ports.quiet with rxValid := true, rxData := b }
  | .decCrcBad b => { Ports.quiet with rxValid := true, rxData := b }
  | .decWait => Ports.quiet
  | .decHold => Ports.quiet
  | .frameL0 _ _ => Ports.quiet
  | .frameL1 _ _ _ => Ports.quiet
  | .frameL2 _ _ _ _ => Ports.quiet
  | .frameL3 _ _ _ _ _ => Ports.quiet
  | .frameL4 _ _ _ _ _ _ => Ports.quiet
  | .frameL5 _ _ _ _ _ _ _ => Ports.quiet
  | .frameL6 _ _ _ _ _ _ _ _ => Ports.quiet
  | .frameL7 _ _ _ _ _ _ _ _ _ => Ports.quiet
  | .frameL8 _ _ _ _ _ _ _ _ _ _ => Ports.quiet

/-! ### A word of the opcode table -/

/-- The `n` bytes of a word of `8 * n` bits in wire order: the table writes a frame as one number whose first byte on
the wire is the most significant (98_reader.md; row FRAME.L0 has START in bits 31 to 24). -/
def bytesOfWord (n w : Nat) : List Byte :=
  match n with
  | 0 => []
  | m + 1 => BitVec.ofNat 8 (w / 256 ^ m) :: bytesOfWord m w

/-- The bytes of a table word, followed by zero bytes up to the longest frame. -/
def tableBytes (nbits w : Nat) : List Byte :=
  bytesOfWord (nbits / 8) w ++ List.replicate (Config.maxFrame - nbits / 8) 0x00

/-- The instruction the decoder reads from a word of the opcode table. A one-byte word is a byte taken by `DEC`, and is
read as the first byte of an attempt (`AwaitStart`); a longer one is a frame. The table gives the other operations no
bits of their own, so no word names them: log entry 3. -/
def decodeTableWord (nbits w : Nat) : Option Instr :=
  if nbits ≤ 8 then some (selectDecByte .awaitStart 0x00 (BitVec.ofNat 8 w))
  else
    match decodeWire (tableBytes nbits w) with
    | .frame i _ => some i
    | .reject _ => none

end Sys2Proof
end

