-- ==== Sys2Proof/Machine/Operands.lean ====
section
/-! DEFINITION. How the operations reach their operands: the entries of a payload buffer (10_state.md R27, R35), the
byte the encoder offers (10_state.md R29, R31), and the ports the block sees at an edge (10_state.md R21 to R24). -/

namespace Sys2Proof

/-- Entry `i` of a buffer. An index of 8 to 15 names no entry (10_state.md R27): the free value of log entry 4. -/
def Payload.get (d : Payload) (i : Index) : Byte :=
  match i.toNat with
  | 0 => d.d0
  | 1 => d.d1
  | 2 => d.d2
  | 3 => d.d3
  | 4 => d.d4
  | 5 => d.d5
  | 6 => d.d6
  | 7 => d.d7
  | _ => Config.bufferBeyond i

/-- The buffer with entry `i` written. An index of 8 to 15 names no entry (10_state.md R27), so nothing is written:
log entry 4. -/
def Payload.set (d : Payload) (i : Index) (b : Byte) : Payload :=
  match i.toNat with
  | 0 => { d with d0 := b }
  | 1 => { d with d1 := b }
  | 2 => { d with d2 := b }
  | 3 => { d with d3 := b }
  | 4 => { d with d4 := b }
  | 5 => { d with d5 := b }
  | 6 => { d with d6 := b }
  | 7 => { d with d7 := b }
  | _ => d

/-- The eight entries, entry 0 first. -/
def Payload.toList (d : Payload) : List Byte :=
  [d.d0, d.d1, d.d2, d.d3, d.d4, d.d5, d.d6, d.d7]

/-- The entries `data[0..n)` (00_scope.md R8). -/
def Payload.upTo (d : Payload) (n : Nat) : List Byte :=
  d.toList.take n

/-- There are eight entries at most. -/
theorem Payload.length_upTo_le (d : Payload) (n : Nat) : (d.upTo n).length ≤ Config.maxLen :=
  Nat.le_trans (List.length_take_le' n d.toList) (Nat.le_refl 8)

/-- A buffer from the bytes listed, entry 0 first; entries beyond those listed are `0x00`, and bytes beyond the eighth
have no entry (30_encoding.md R93, `enc.send`). -/
def Payload.ofList (bs : List Byte) : Payload :=
  { d0 := bs.getD 0 0x00, d1 := bs.getD 1 0x00, d2 := bs.getD 2 0x00, d3 := bs.getD 3 0x00, d4 := bs.getD 4 0x00,
    d5 := bs.getD 5 0x00, d6 := bs.getD 6 0x00, d7 := bs.getD 7 0x00 }

namespace Machine

/-- The frame with the first `n` entries of a buffer as its payload (00_scope.md R8, R10). -/
def Frame.ofPayload (id : Byte) (d : Payload) (n : Nat) : Frame :=
  { id := id, data := d.upTo n, short := d.length_upTo_le n }

/-- `tx_data`: the byte the encoder offers; `0x00` in `EncIdle`, where `tx_valid = 0` (10_state.md R31). -/
def txData (e : Enc) : Byte :=
  match e.encState with
  | .encIdle => 0x00
  | .encStart => Config.start
  | .encId => e.encIdR
  | .encLen => e.encLenR
  | .encData => e.encDataR.get e.encIdx
  | .encCrc => e.encCrc

end Machine

end Sys2Proof
end

