-- ==== Sys2Proof/Machine/Flags.lean ====
section
/-! DEFINITION. The status flags and outputs, functions of the registers alone (10_state.md R21, R31 to R33), the error
codes (30_encoding.md R87) and the result of an attempt (42_decoder.md R177, R178). -/

namespace Sys2Proof.Machine

/-- `enc_ready` (10_state.md R31). -/
def encReady (st : EncState) : Bool := st == .encIdle

/-- `enc_busy` (10_state.md R31). -/
def encBusy (st : EncState) : Bool := st != .encIdle

/-- `tx_valid` (10_state.md R31). -/
def txValid (st : EncState) : Bool := st != .encIdle

/-- `rx_ready` (10_state.md R32). -/
def rxReady (st : DecState) : Bool := st.reading

/-- `dec_busy` (10_state.md R32). -/
def decBusy (st : DecState) : Bool := rxReady st

/-- `dec_done` (10_state.md R32). -/
def decDone (st : DecState) : Bool := st == .accepted || st == .rejected

/-- `dec_ok` (10_state.md R32). -/
def decOk (st : DecState) : Bool := st == .accepted

/-- The 2-bit code of a failure kind (30_encoding.md R87). -/
def errorCode (e : DecodeError) : BitVec 2 :=
  match e with
  | .badStartByte => 1
  | .lengthOutOfRange => 2
  | .checksumMismatch => 3

/-- `dec_err`: the code in `dec_err_r`, 0 for none (30_encoding.md R87; 10_state.md R32). -/
def decErr (e : Option DecodeError) : BitVec 2 :=
  match e with
  | none => 0
  | some k => errorCode k

/-- The five frame ports' values (10_state.md R24, R32). -/
structure FramePorts where
  decId       : Byte
  decLen      : Byte
  decData     : Payload
  decChecksum : Byte
  deriving DecidableEq, Repr

/-- The frame ports: architectural only while `dec_ok = 1`, so an optional value (10_state.md R24). -/
def framePorts (d : Dec) : Option FramePorts :=
  if decOk d.decState then
    some { decId := d.decIdR, decLen := d.decLenR, decData := d.decDataR, decChecksum := d.decCrcRx }
  else none

/-- The frame in the decoder's registers, its first `dec_len_r` payload entries only (42_decoder.md R177). -/
def decFrame (d : Dec) : Frame :=
  Frame.ofPayload d.decIdR d.decDataR d.decLenR.toNat

/-- The result of the last attempt, while it is readable: the frame when accepted, the failure kind alone when
rejected (42_decoder.md R177, R178). -/
def attemptResult (d : Dec) : Option Result :=
  match d.decState with
  | .accepted => some (.ok (decFrame d))
  | .rejected => d.decErrR.map .err
  | .decIdle => none
  | .awaitStart => none
  | .readId => none
  | .readLen => none
  | .readData => none
  | .readChecksum => none

/-- Every output port of the block (10_state.md R22 to R24). -/
structure Outputs where
  crcQ     : Byte
  encReady : Bool
  encBusy  : Bool
  encFault : Bool
  txValid  : Bool
  txData   : Byte
  rxReady  : Bool
  decBusy  : Bool
  decDone  : Bool
  decOk    : Bool
  decErr   : BitVec 2
  frame    : Option FramePorts
  deriving DecidableEq, Repr

/-- The outputs, from the registers alone (10_state.md R21, R25, R31, R32). -/
def outputs (s : State) : Outputs :=
  { crcQ := s.crcu.crcQ
    encReady := encReady s.enc.encState
    encBusy := encBusy s.enc.encState
    encFault := s.enc.encFault
    txValid := txValid s.enc.encState
    txData := txData s.enc
    rxReady := rxReady s.dec.decState
    decBusy := decBusy s.dec.decState
    decDone := decDone s.dec.decState
    decOk := decOk s.dec.decState
    decErr := decErr s.dec.decErrR
    frame := framePorts s.dec }

end Sys2Proof.Machine
end

