-- ==== Sys2Proof/Machine/Ops.lean ====
section
/-! DEFINITION. The operations the meanings share: recording a byte that moves, folding a byte into a unit's checksum
register, raising a failure (60_exceptions.md R204, R209) and, beside it, the return from one (R210). -/

namespace Sys2Proof.Machine

/-- A byte has been taken on `rx` (00_scope.md R9, `rx_fire`). -/
def noteTaken (b : Byte) (s : State) : State :=
  { s with hist := { s.hist with rxTaken := s.hist.rxTaken ++ [b], rxAll := s.hist.rxAll ++ [b] } }

/-- A byte has fired on `tx` (00_scope.md R9, `tx_fire`). -/
def noteFired (b : Byte) (s : State) : State :=
  { s with hist := { s.hist with txFired := s.hist.txFired ++ [b] } }

/-- A legal frame has fired on the frame port (00_scope.md R9, `enc_fire`). -/
def noteLoaded (f : Frame) (s : State) : State :=
  { s with hist := { s.hist with loaded := s.hist.loaded ++ [f] } }

/-- An attempt has ended with result `r`. -/
def noteResult (r : Result) (s : State) : State :=
  { s with hist := { s.hist with results := s.hist.results ++ [r] } }

/-- `enc_crc <- crc8_update(enc_crc, b)`. -/
def foldEnc (b : Byte) (s : State) : State :=
  { s with enc := { s.enc with encCrc := crc8Update s.enc.encCrc b } }

/-- `dec_crc <- crc8_update(dec_crc, b)`. -/
def foldDec (b : Byte) (s : State) : State :=
  { s with dec := { s.dec with decCrc := crc8Update s.dec.decCrc b } }

/-- `enc_state <- st`. -/
def gotoEnc (st : EncState) (s : State) : State :=
  { s with enc := { s.enc with encState := st } }

/-- `dec_state <- st`. -/
def gotoDec (st : DecState) (s : State) : State :=
  { s with dec := { s.dec with decState := st } }

/-- TAKING AN EXCEPTION: `raise E` in a decoder operation, `dec_err_r <- code(E); dec_state <- Rejected`. Nothing else
is saved, no other unit is affected (60_exceptions.md R204). -/
def raiseDecodeError (e : DecodeError) (s : State) : State :=
  noteResult (.err e) { s with dec := { s.dec with decErrR := some e, decState := .rejected } }

/-- `raise EncLengthFault`: `enc_fault <- 1`, sticky (60_exceptions.md R209). -/
def raiseEncLengthFault (s : State) : State :=
  { s with enc := { s.enc with encFault := true } }

/-- THE RETURN: DEC.START leaves `Rejected` or `Accepted` for a fresh attempt, with every data register cleared; there
is nothing to restore (60_exceptions.md R210; 42_decoder.md R163). -/
def startAttempt (s : State) : State :=
  { s with
    dec := { decState := .awaitStart, decErrR := none, decIdR := 0x00, decLenR := 0x00, decDataR := zeroPayload,
             decIdx := 0, decCrc := 0x00, decCrcRx := 0x00 }
    hist := { s.hist with rxTaken := [] } }

end Sys2Proof.Machine
end

