-- ==== Sys2Proof/Machine/CrcUnit.lean ====
section
/-! DEFINITION. The operations of `CRCU` (40_crc8.md R118 to R120). -/

namespace Sys2Proof.Machine

/-- `crc_q <- 0x00` (40_crc8.md R118). -/
def effCrcClr (s : State) : State :=
  { s with crcu := { crcQ := 0x00 }, hist := { s.hist with crcFed := [] } }

/-- `crc_q <- crc8_update(crc_q, crc_din)` (40_crc8.md R119). -/
def effCrcUpd (din : Byte) (s : State) : State :=
  { s with crcu := { crcQ := crc8Update s.crcu.crcQ din }, hist := { s.hist with crcFed := s.hist.crcFed ++ [din] } }

/-- CRC.CLR (40_crc8.md R118). -/
def execCrcClr (s : State) : Host.Outcome State Fault Refusal := .next (effCrcClr s)

/-- CRC.UPD (40_crc8.md R119). -/
def execCrcUpd (din : Byte) (s : State) : Host.Outcome State Fault Refusal := .next (effCrcUpd din s)

/-- CRC.HOLD: nothing changes (40_crc8.md R120). -/
def execCrcHold (s : State) : Host.Outcome State Fault Refusal := .next s

end Sys2Proof.Machine
end

