-- ==== Sys2Proof/Machine/DecUnit.lean ====
section
/-! DEFINITION. The operations of `DEC` (42_decoder.md R163 to R175). Each does its rule's writes in the states and on the
bytes its row names, and nothing elsewhere: "A rule whose condition is false on an edge does nothing on that edge"
(00_scope.md R9). -/

namespace Sys2Proof.Machine

/-- DEC.START: outside the reading states it begins a fresh attempt (42_decoder.md R163); in them it is ignored
(R164). -/
def effDecStart (s : State) : State :=
  if s.dec.decState.reading then s else startAttempt s

/-- DEC.SOF_OK: the byte is consumed and not stored (42_decoder.md R165). -/
def effDecSofOk (s : State) : State :=
  if s.dec.decState = .awaitStart then noteTaken Config.start (gotoDec .readId s) else s

/-- DEC.SOF_BAD: the byte is consumed and BadStartByte raised (42_decoder.md R166). -/
def effDecSofBad (b : Byte) (s : State) : State :=
  if s.dec.decState = .awaitStart ∧ b ≠ Config.start then raiseDecodeError .badStartByte (noteTaken b s) else s

/-- DEC.RD_ID (42_decoder.md R167). -/
def effDecRdId (b : Byte) (s : State) : State :=
  if s.dec.decState = .readId then
    noteTaken b (gotoDec .readLen (foldDec b { s with dec := { s.dec with decIdR := b } }))
  else s

/-- DEC.RD_LEN_ZERO: the data loop is skipped (42_decoder.md R168). -/
def effDecRdLenZero (s : State) : State :=
  if s.dec.decState = .readLen then
    noteTaken 0x00 (gotoDec .readChecksum (foldDec 0x00 { s with dec := { s.dec with decLenR := 0x00 } }))
  else s

/-- DEC.RD_LEN_NZ (42_decoder.md R169). -/
def effDecRdLenNz (b : Byte) (s : State) : State :=
  if s.dec.decState = .readLen ∧ 1 ≤ b.toNat ∧ b.toNat ≤ Config.maxLen then
    noteTaken b (gotoDec .readData (foldDec b { s with dec := { s.dec with decLenR := b } }))
  else s

/-- DEC.RD_LEN_BAD: the LEN byte is recorded and folded, and LengthOutOfRange raised (42_decoder.md R170). -/
def effDecRdLenBad (b : Byte) (s : State) : State :=
  if s.dec.decState = .readLen ∧ Config.maxLen < b.toNat then
    raiseDecodeError .lengthOutOfRange (noteTaken b (foldDec b { s with dec := { s.dec with decLenR := b } }))
  else s

/-- DEC.RD_DATA: the old `dec_idx` on every right-hand side (42_decoder.md R171; 00_scope.md R9). -/
def effDecRdData (b : Byte) (s : State) : State :=
  if s.dec.decState = .readData then
    noteTaken b
      { s with
        dec := { s.dec with
          decDataR := s.dec.decDataR.set s.dec.decIdx b
          decCrc := crc8Update s.dec.decCrc b
          decIdx := s.dec.decIdx + 1
          decState := if s.dec.decIdx.toNat + 1 = s.dec.decLenR.toNat then .readChecksum else .readData } }
  else s

/-- DEC.CRC_OK: `dec_crc` is not updated with the byte (42_decoder.md R172). -/
def effDecCrcOk (b : Byte) (s : State) : State :=
  if s.dec.decState = .readChecksum ∧ b = s.dec.decCrc then
    noteResult (.ok (decFrame s.dec))
      (noteTaken b { s with dec := { s.dec with decCrcRx := b, decState := .accepted } })
  else s

/-- DEC.CRC_BAD: ChecksumMismatch raised (42_decoder.md R173). -/
def effDecCrcBad (b : Byte) (s : State) : State :=
  if s.dec.decState = .readChecksum ∧ b ≠ s.dec.decCrc then
    raiseDecodeError .checksumMismatch (noteTaken b { s with dec := { s.dec with decCrcRx := b } })
  else s

/-- DEC.START (42_decoder.md R163, R164). -/
def execDecStart (s : State) : Host.Outcome State Fault Refusal := .next (effDecStart s)

/-- DEC.SOF_OK (42_decoder.md R165). -/
def execDecSofOk (s : State) : Host.Outcome State Fault Refusal := .next (effDecSofOk s)

/-- DEC.SOF_BAD (42_decoder.md R166). -/
def execDecSofBad (b : Byte) (s : State) : Host.Outcome State Fault Refusal := .next (effDecSofBad b s)

/-- DEC.RD_ID (42_decoder.md R167). -/
def execDecRdId (b : Byte) (s : State) : Host.Outcome State Fault Refusal := .next (effDecRdId b s)

/-- DEC.RD_LEN_ZERO (42_decoder.md R168). -/
def execDecRdLenZero (s : State) : Host.Outcome State Fault Refusal := .next (effDecRdLenZero s)

/-- DEC.RD_LEN_NZ (42_decoder.md R169). -/
def execDecRdLenNz (b : Byte) (s : State) : Host.Outcome State Fault Refusal := .next (effDecRdLenNz b s)

/-- DEC.RD_LEN_BAD (42_decoder.md R170). -/
def execDecRdLenBad (b : Byte) (s : State) : Host.Outcome State Fault Refusal := .next (effDecRdLenBad b s)

/-- DEC.RD_DATA (42_decoder.md R171). -/
def execDecRdData (b : Byte) (s : State) : Host.Outcome State Fault Refusal := .next (effDecRdData b s)

/-- DEC.CRC_OK (42_decoder.md R172). -/
def execDecCrcOk (b : Byte) (s : State) : Host.Outcome State Fault Refusal := .next (effDecCrcOk b s)

/-- DEC.CRC_BAD (42_decoder.md R173). -/
def execDecCrcBad (b : Byte) (s : State) : Host.Outcome State Fault Refusal := .next (effDecCrcBad b s)

/-- DEC.WAIT: nothing changes, for as long as no byte is offered (42_decoder.md R174). -/
def execDecWait (s : State) : Host.Outcome State Fault Refusal := .next s

/-- DEC.HOLD: nothing changes; no byte is taken (42_decoder.md R175). -/
def execDecHold (s : State) : Host.Outcome State Fault Refusal := .next s

/-- One byte taken by `DEC` in the state it is in, by the operation that state and byte select (30_encoding.md R91). -/
def takeByte (b : Byte) (s : State) : State :=
  match s.dec.decState with
  | .awaitStart => if b = Config.start then effDecSofOk s else effDecSofBad b s
  | .readId => effDecRdId b s
  | .readLen =>
    if b = 0x00 then effDecRdLenZero s else if b.toNat ≤ Config.maxLen then effDecRdLenNz b s else effDecRdLenBad b s
  | .readData => effDecRdData b s
  | .readChecksum => if b = s.dec.decCrc then effDecCrcOk b s else effDecCrcBad b s
  | .decIdle => s
  | .accepted => s
  | .rejected => s

end Sys2Proof.Machine
end

