-- ==== Sys2Proof/Machine/EncUnit.lean ====
section
/-! DEFINITION. The operations of `ENC` (41_encoder.md R133 to R141). Each does its rule's writes in the states and on the
arguments its row names, and nothing elsewhere: "A rule whose condition is false on an edge does nothing on that
edge" (00_scope.md R9). -/

namespace Sys2Proof.Machine

/-- ENC.LOAD's writes: all eight data entries are copied whatever `enc_len` is (41_encoder.md R133). -/
def effEncLoad (id len : Byte) (d : Payload) (s : State) : State :=
  if s.enc.encState = .encIdle ∧ len.toNat ≤ Config.maxLen then
    noteLoaded (Frame.ofPayload id d len.toNat)
      { s with
        enc := { s.enc with encIdR := id, encLenR := len, encDataR := d, encIdx := 0, encCrc := 0x00,
                            encState := .encStart } }
  else s

/-- ENC.LOAD_FAULT: `raise EncLengthFault`, nothing else (41_encoder.md R134). -/
def effEncLoadFault (len : Byte) (s : State) : State :=
  if s.enc.encState = .encIdle ∧ Config.maxLen < len.toNat then raiseEncLengthFault s else s

/-- ENC.TX_START: START fires and is not covered by the checksum (41_encoder.md R135). -/
def effEncTxStart (s : State) : State :=
  if s.enc.encState = .encStart then noteFired (txData s.enc) (gotoEnc .encId s) else s

/-- ENC.TX_ID (41_encoder.md R136). -/
def effEncTxId (s : State) : State :=
  if s.enc.encState = .encId then
    noteFired (txData s.enc) (gotoEnc .encLen (foldEnc s.enc.encIdR s))
  else s

/-- ENC.TX_LEN: with `enc_len_r = 0` the data state is skipped (41_encoder.md R137). -/
def effEncTxLen (s : State) : State :=
  if s.enc.encState = .encLen then
    noteFired (txData s.enc)
      (gotoEnc (if s.enc.encLenR = 0x00 then .encCrc else .encData) (foldEnc s.enc.encLenR s))
  else s

/-- ENC.TX_DATA: the old `enc_idx` on every right-hand side (41_encoder.md R138; 00_scope.md R9). -/
def effEncTxData (s : State) : State :=
  if s.enc.encState = .encData then
    noteFired (txData s.enc)
      { s with
        enc := { s.enc with
          encCrc := crc8Update s.enc.encCrc (s.enc.encDataR.get s.enc.encIdx)
          encIdx := s.enc.encIdx + 1
          encState := if s.enc.encIdx.toNat + 1 = s.enc.encLenR.toNat then .encCrc else .encData } }
  else s

/-- ENC.TX_CRC (41_encoder.md R139). -/
def effEncTxCrc (s : State) : State :=
  if s.enc.encState = .encCrc then noteFired (txData s.enc) (gotoEnc .encIdle s) else s

/-- ENC.LOAD (41_encoder.md R133). -/
def execEncLoad (id len : Byte) (d : Payload) (s : State) : Host.Outcome State Fault Refusal :=
  .next (effEncLoad id len d s)

/-- ENC.LOAD_FAULT (41_encoder.md R134). -/
def execEncLoadFault (len : Byte) (s : State) : Host.Outcome State Fault Refusal := .next (effEncLoadFault len s)

/-- ENC.TX_START (41_encoder.md R135). -/
def execEncTxStart (s : State) : Host.Outcome State Fault Refusal := .next (effEncTxStart s)

/-- ENC.TX_ID (41_encoder.md R136). -/
def execEncTxId (s : State) : Host.Outcome State Fault Refusal := .next (effEncTxId s)

/-- ENC.TX_LEN (41_encoder.md R137). -/
def execEncTxLen (s : State) : Host.Outcome State Fault Refusal := .next (effEncTxLen s)

/-- ENC.TX_DATA (41_encoder.md R138). -/
def execEncTxData (s : State) : Host.Outcome State Fault Refusal := .next (effEncTxData s)

/-- ENC.TX_CRC (41_encoder.md R139). -/
def execEncTxCrc (s : State) : Host.Outcome State Fault Refusal := .next (effEncTxCrc s)

/-- ENC.WAIT: nothing changes; the same byte stays on offer (41_encoder.md R140). -/
def execEncWait (s : State) : Host.Outcome State Fault Refusal := .next s

/-- ENC.IDLE: nothing changes (41_encoder.md R141). -/
def execEncIdle (s : State) : Host.Outcome State Fault Refusal := .next s

end Sys2Proof.Machine
end

