-- ==== Sys2Proof/Machine/Global.lean ====
section
/-! DEFINITION. RST, the operation of all three units (70_reset_and_hazards.md R230 to R233). -/

namespace Sys2Proof.Machine

/-- RST: every register takes its reset value; the transport is not touched; "since reset" starts anew in the record
(70_reset_and_hazards.md R230, R233). -/
def effRst (s : State) : State :=
  { crcu := Crcu.reset, enc := Enc.reset, dec := Dec.reset, env := s.env, hist := History.empty }

/-- RST (70_reset_and_hazards.md R230). -/
def execRst (s : State) : Host.Outcome State Fault Refusal := .next (effRst s)

end Sys2Proof.Machine
end

