-- ==== Sys2Proof/Machine/WireFrames.lean ====
section
/-! DEFINITION. The meaning of a frame on the wire: its bytes cross the `rx` port in wire order (30_encoding.md R80, R81),
each by the operation of `DEC` that takes it (42_decoder.md R165 to R173), until the attempt ends; bytes not taken stay
with the transport (20_memory.md R61). -/

namespace Sys2Proof.Machine

/-- The bytes offered to `DEC` one after the other: the state after those it takes, and those it does not take. -/
def deliver (w : List Byte) (s : State) : State × List Byte :=
  match w with
  | [] => (s, [])
  | b :: rest => if rxReady s.dec.decState then deliver rest (takeByte b s) else (s, b :: rest)

/-- The bytes delivered, those not taken standing again at the head of the transport's stream (20_memory.md R61). -/
def receive (w : List Byte) (s : State) : State :=
  { (deliver w s).1 with
    env := { (deliver w s).1.env with rxQueue := (deliver w s).2 ++ (deliver w s).1.env.rxQueue } }

/-- FRAME.L0 (30_encoding.md R81). -/
def execFrameL0 (i c : Byte) (s : State) : Host.Outcome State Fault Refusal :=
  .next (receive (wireBytes i [] c) s)

/-- FRAME.L1 (30_encoding.md R81). -/
def execFrameL1 (i d0 c : Byte) (s : State) : Host.Outcome State Fault Refusal :=
  .next (receive (wireBytes i [d0] c) s)

/-- FRAME.L2 (30_encoding.md R81). -/
def execFrameL2 (i d0 d1 c : Byte) (s : State) : Host.Outcome State Fault Refusal :=
  .next (receive (wireBytes i [d0, d1] c) s)

/-- FRAME.L3 (30_encoding.md R81). -/
def execFrameL3 (i d0 d1 d2 c : Byte) (s : State) : Host.Outcome State Fault Refusal :=
  .next (receive (wireBytes i [d0, d1, d2] c) s)

/-- FRAME.L4 (30_encoding.md R81). -/
def execFrameL4 (i d0 d1 d2 d3 c : Byte) (s : State) : Host.Outcome State Fault Refusal :=
  .next (receive (wireBytes i [d0, d1, d2, d3] c) s)

/-- FRAME.L5 (30_encoding.md R81). -/
def execFrameL5 (i d0 d1 d2 d3 d4 c : Byte) (s : State) : Host.Outcome State Fault Refusal :=
  .next (receive (wireBytes i [d0, d1, d2, d3, d4] c) s)

/-- FRAME.L6 (30_encoding.md R81). -/
def execFrameL6 (i d0 d1 d2 d3 d4 d5 c : Byte) (s : State) : Host.Outcome State Fault Refusal :=
  .next (receive (wireBytes i [d0, d1, d2, d3, d4, d5] c) s)

/-- FRAME.L7 (30_encoding.md R81). -/
def execFrameL7 (i d0 d1 d2 d3 d4 d5 d6 c : Byte) (s : State) : Host.Outcome State Fault Refusal :=
  .next (receive (wireBytes i [d0, d1, d2, d3, d4, d5, d6] c) s)

/-- FRAME.L8 (30_encoding.md R81). -/
def execFrameL8 (i d0 d1 d2 d3 d4 d5 d6 d7 c : Byte) (s : State) : Host.Outcome State Fault Refusal :=
  .next (receive (wireBytes i [d0, d1, d2, d3, d4, d5, d6, d7] c) s)

end Sys2Proof.Machine
end

