-- ==== Sys2Proof/Machine/Dispatch.lean ====
section
/-! DEFINITION. One arm for each operation and each frame format of the opcode table. -/

namespace Sys2Proof.Machine

def exec (i : Instr) (s : State) : Host.Outcome State Fault Refusal :=
  match i with
  | .rst => Sys2Proof.Machine.execRst s
  -- CRCU
  | .crcClr => Sys2Proof.Machine.execCrcClr s
  | .crcUpd din => Sys2Proof.Machine.execCrcUpd din s
  | .crcHold => Sys2Proof.Machine.execCrcHold s
  -- ENC
  | .encLoad id len d => Sys2Proof.Machine.execEncLoad id len d s
  | .encLoadFault len => Sys2Proof.Machine.execEncLoadFault len s
  | .encTxStart => Sys2Proof.Machine.execEncTxStart s
  | .encTxId => Sys2Proof.Machine.execEncTxId s
  | .encTxLen => Sys2Proof.Machine.execEncTxLen s
  | .encTxData => Sys2Proof.Machine.execEncTxData s
  | .encTxCrc => Sys2Proof.Machine.execEncTxCrc s
  | .encWait => Sys2Proof.Machine.execEncWait s
  | .encIdle => Sys2Proof.Machine.execEncIdle s
  -- DEC
  | .decStart => Sys2Proof.Machine.execDecStart s
  | .decSofOk => Sys2Proof.Machine.execDecSofOk s
  | .decSofBad b => Sys2Proof.Machine.execDecSofBad b s
  | .decRdId b => Sys2Proof.Machine.execDecRdId b s
  | .decRdLenZero => Sys2Proof.Machine.execDecRdLenZero s
  | .decRdLenNz b => Sys2Proof.Machine.execDecRdLenNz b s
  | .decRdLenBad b => Sys2Proof.Machine.execDecRdLenBad b s
  | .decRdData b => Sys2Proof.Machine.execDecRdData b s
  | .decCrcOk b => Sys2Proof.Machine.execDecCrcOk b s
  | .decCrcBad b => Sys2Proof.Machine.execDecCrcBad b s
  | .decWait => Sys2Proof.Machine.execDecWait s
  | .decHold => Sys2Proof.Machine.execDecHold s
  -- frames on the wire
  | .frameL0 i0 c => Sys2Proof.Machine.execFrameL0 i0 c s
  | .frameL1 i0 d0 c => Sys2Proof.Machine.execFrameL1 i0 d0 c s
  | .frameL2 i0 d0 d1 c => Sys2Proof.Machine.execFrameL2 i0 d0 d1 c s
  | .frameL3 i0 d0 d1 d2 c => Sys2Proof.Machine.execFrameL3 i0 d0 d1 d2 c s
  | .frameL4 i0 d0 d1 d2 d3 c => Sys2Proof.Machine.execFrameL4 i0 d0 d1 d2 d3 c s
  | .frameL5 i0 d0 d1 d2 d3 d4 c => Sys2Proof.Machine.execFrameL5 i0 d0 d1 d2 d3 d4 c s
  | .frameL6 i0 d0 d1 d2 d3 d4 d5 c => Sys2Proof.Machine.execFrameL6 i0 d0 d1 d2 d3 d4 d5 c s
  | .frameL7 i0 d0 d1 d2 d3 d4 d5 d6 c => Sys2Proof.Machine.execFrameL7 i0 d0 d1 d2 d3 d4 d5 d6 c s
  | .frameL8 i0 d0 d1 d2 d3 d4 d5 d6 d7 c => Sys2Proof.Machine.execFrameL8 i0 d0 d1 d2 d3 d4 d5 d6 d7 c s

end Sys2Proof.Machine
end

