-- ==== Sys2Proof/Machine/PortSide.lean ====
section
/-! DEFINITION. The environment at one edge: the port values the block sees, what the transport does, and the edges of
the host's script statements (20_memory.md R60 to R63; 30_encoding.md R93). -/

namespace Sys2Proof.Machine

/-- An edge with every host port at 0, `tx` not accepted and nothing offered on `rx`. -/
def Edge.quiet : Edge :=
  { host := HostPorts.quiet, txReady := false, rxOffer := false, rxIdle := 0x00, loopback := false, resetGives := false,
    resetTakes := false }

/-- An edge whose only activity is that the transport offers the next byte of its stream. -/
def Edge.offer : Edge := { Edge.quiet with rxOffer := true }

/-- The input ports at an edge. In `loopback` the byte ports are wired to the block's own outputs of the cycle before
the edge (30_encoding.md R93). Otherwise `rx_valid = 1` exactly when the transport offers and has a byte, and that byte
is the head of its stream (20_memory.md R63); `rx_data` is any value when nothing is offered (R61). -/
def edgePorts (e : Edge) (s : State) : Ports :=
  if e.loopback then
    { host := e.host, txReady := rxReady s.dec.decState, rxValid := txValid s.enc.encState, rxData := txData s.enc }
  else
    match s.env.rxQueue with
    | [] => { host := e.host, txReady := e.txReady, rxValid := false, rxData := e.rxIdle }
    | b :: _ =>
      { host := e.host, txReady := e.txReady, rxValid := e.rxOffer, rxData := if e.rxOffer then b else e.rxIdle }

/-- `rx_fire` (00_scope.md R9). -/
def rxFire (p : Ports) (s : State) : Bool := !p.host.rst && p.rxValid && rxReady s.dec.decState

/-- `tx_fire` (00_scope.md R9). -/
def txFire (p : Ports) (s : State) : Bool := !p.host.rst && txValid s.enc.encState && p.txReady

/-- `enc_fire` (00_scope.md R9). -/
def encFire (p : Ports) (s : State) : Bool := !p.host.rst && p.host.encValid && encReady s.enc.encState

/-- Whether the transport counts a byte of its stream as taken: at `rx_fire`, and, if it counts the transfers it sees at
a reset edge, there too (20_memory.md R61; 70_reset_and_hazards.md R247). In `loopback` its stream stands still. -/
def transportGives (e : Edge) (s : State) : Bool :=
  !e.loopback && (edgePorts e s).rxValid && rxReady s.dec.decState && (!e.host.rst || e.resetGives)

/-- Whether the transport counts a byte as received from `tx` (20_memory.md R60; 70_reset_and_hazards.md R247). -/
def transportTakes (e : Edge) (s : State) : Bool :=
  txValid s.enc.encState && (edgePorts e s).txReady && (!e.host.rst || e.resetTakes)

/-- The transport's side of one edge, and the bytes that fire on `tx`: a byte the transport counts at a reset edge has
not fired (00_scope.md R9; 90_conflicts.md C8). -/
def transport (e : Edge) (s : State) : State :=
  { s with
    env := { s.env with
      rxQueue := if transportGives e s then s.env.rxQueue.tail else s.env.rxQueue
      txLine := if transportTakes e s then s.env.txLine ++ [txData s.enc] else s.env.txLine
      txSent := if txFire (edgePorts e s) s then s.env.txSent ++ [txData s.enc] else s.env.txSent } }

/-- The environment's next things to do are now `st`. -/
def withStims (st : List Stim) (s : State) : State := { s with env := { s.env with stims := st } }

/-- The transport's stream is now `q`. -/
def withRxQueue (q : List Byte) (s : State) : State := { s with env := { s.env with rxQueue := q } }

end Sys2Proof.Machine
end

