-- ==== Sys2Proof/Machine/Cycle.lean ====
section
/-! DEFINITION. What one step runs: a clock edge, at which the selected operation of each unit is performed (30_encoding.md
R89; 20_memory.md R71), or the reception of a frame. -/

namespace Sys2Proof.Machine

/-- Go on from a next state; a fault or a refusal ends the step. -/
def andThen (o : Host.Outcome State Fault Refusal) (f : State → Host.Outcome State Fault Refusal) :
    Host.Outcome State Fault Refusal :=
  match o with
  | .next s => f s
  | .fault r => .fault r
  | .refused r => .refused r

/-- The operations one after the other. The units share no register (10_state.md R20), so the order does not matter
(20_memory.md R71). -/
def execAll (is : List Instr) (s : State) : Host.Outcome State Fault Refusal :=
  match is with
  | [] => .next s
  | i :: rest => andThen (exec i s) (execAll rest)

/-- The operations selected at an edge, from the state before it (30_encoding.md R89; 00_scope.md R9). -/
def selectedAt (e : Edge) (s : State) : List Instr :=
  selected s.enc.encState s.dec.decState s.dec.decCrc (edgePorts e s)

/-- One clock edge: the transport's side, and the selected operations. -/
def edgeStep (e : Edge) (s : State) : Host.Outcome State Fault Refusal :=
  execAll (selectedAt e s) (transport e s)

/-- One reception: the frame at the head of the transport's stream is fetched and executed; bytes that are no whole
frame are taken one by one all the same, as far as the attempt goes (42_decoder.md R160). -/
def recvStep (s : State) : Host.Outcome State Fault Refusal :=
  match decodeWire s.env.rxQueue with
  | .frame i rest => exec i (withRxQueue rest s)
  | .reject _ => .next (receive s.env.rxQueue (withRxQueue [] s))

/-- `s` with a table word placed where the very next step runs it: a fresh attempt in `AwaitStart`, the word's bytes at
the head of the transport's stream, and one offering edge for a single byte or one reception for a frame. -/
def placeWord (s : State) (nbits w : Nat) : State :=
  withStims ((if nbits ≤ 8 then Stim.edge Edge.offer else Stim.recv) :: s.env.stims)
    (withRxQueue (tableBytes nbits w) (startAttempt s))

end Sys2Proof.Machine
end

