-- ==== Sys2Proof/Machine/Functional.lean ====
section
/-! DEFINITION. The functional level, which 00_scope.md R11 makes normative beside the cycle level: `encode`
(41_encoder.md R130), valid frames (30_encoding.md R86), `decode` (42_decoder.md R160) and `decode_all` (R184). The
machine does not call these; the refinement statements compare it with them. -/

namespace Sys2Proof.Machine

/-- The LEN byte of a frame (00_scope.md R10). -/
def Frame.len (f : Frame) : Byte := BitVec.ofNat 8 f.data.length

/-- The body before the checksum, `id ‖ length ‖ data[0..length)` (40_crc8.md R114). -/
def Frame.body (f : Frame) : List Byte := f.id :: f.len :: f.data

/-- The derived checksum (00_scope.md R10; 40_crc8.md R114). -/
def Frame.checksum (f : Frame) : Byte := crc8 f.body

/-- `encode` (41_encoder.md R130). -/
def Frame.encode (f : Frame) : List Byte := Config.start :: (f.body ++ [f.checksum])

/-- A byte sequence is a valid frame (30_encoding.md R86). -/
def validFrame (w : List Byte) : Bool :=
  match w with
  | s :: i :: len :: rest =>
    s == Config.start && decide (len.toNat ≤ Config.maxLen) && decide (w.length = 4 + len.toNat) &&
      rest.getLast? == some (crc8 (i :: len :: rest.dropLast))
  | _ => false

/-- What `decode` gives on the bytes that have arrived: an ended attempt and how many bytes it consumed, or the reading
state (in `ReadData` with its index) in which it waits (42_decoder.md R160). -/
inductive DecodeOut where
  | done (r : Result) (n : Nat)
  | pending (st : DecState) (i : Nat)
  deriving DecidableEq, Repr

/-- Cases 6 to 9 of `decode`: the bytes after a legal LEN byte `len` (42_decoder.md R160). -/
def decodeTail (i len : Byte) (legal : len.toNat ≤ Config.maxLen) (body : List Byte) : DecodeOut :=
  if body.length < len.toNat then .pending .readData body.length
  else
    match body.drop len.toNat with
    | [] => .pending .readChecksum 0
    | c :: _ =>
      if c = crc8 (i :: len :: body.take len.toNat) then
        .done (.ok { id := i, data := body.take len.toNat, short := Nat.le_trans (List.length_take_le _ _) legal })
          (4 + len.toNat)
      else .done (.err .checksumMismatch) (4 + len.toNat)

/-- `decode`, its nine cases in the order of 42_decoder.md R160. -/
def decode (s : List Byte) : DecodeOut :=
  match s with
  | [] => .pending .awaitStart 0
  | b :: s1 =>
    if b ≠ Config.start then .done (.err .badStartByte) 1
    else
      match s1 with
      | [] => .pending .readId 0
      | _ :: [] => .pending .readLen 0
      | i :: len :: body =>
        if legal : len.toNat ≤ Config.maxLen then decodeTail i len legal body else .done (.err .lengthOutOfRange) 3

/-- `decode_all` with a bound on the number of attempts. -/
def decodeAllWithin (fuel : Nat) (s : List Byte) : List Result :=
  match fuel with
  | 0 => []
  | k + 1 =>
    match decode s with
    | .done r n => r :: decodeAllWithin k (s.drop n)
    | .pending _ _ => []

/-- `decode_all` (42_decoder.md R184). An attempt that ends consumes at least one byte (R161), so the length of the
stream bounds the number of attempts. -/
def decodeAll (s : List Byte) : List Result := decodeAllWithin s.length s

end Sys2Proof.Machine
end

