-- ==== Sys2Proof/Machine/Script.lean ====
section
/-! DEFINITION. The host script of 30_encoding.md R93: what the host does at each of its statements, and the
pseudo-operations. A statement that waits stands at the head of the plan until what it waits for has come, so a script
blocks exactly where the host of R93 does; the transport stalls, for ever if need be, as `Env.pace` and `Env.paceAfter`
say. -/

namespace Sys2Proof.Machine

/-! ### The statements -/

/-- The transport's side of a script's next edge, and the environment before that edge: the pace is taken from its
source, and what has arrived stands at the end of the `rx` stream. -/
def nextPace (env : Env) : Pace × Env :=
  match env.pace with
  | p :: rest => (p, { env with pace := rest, rxQueue := env.rxQueue ++ p.arrives })
  | [] =>
    match env.paceAfter with
    | .always p => (p, { env with rxQueue := env.rxQueue ++ p.arrives })
    | .free n =>
      (Config.laterPace n,
        { env with paceAfter := .free (n + 1), rxQueue := env.rxQueue ++ (Config.laterPace n).arrives })

/-- A script's edge: the host's ports, the transport at the pace `p`, and the wiring a `loopback` has made. -/
def hostEdge (h : HostPorts) (p : Pace) (wired : Bool) : Edge :=
  { host := h, txReady := p.txReady, rxOffer := p.rxOffer, rxIdle := p.rxIdle, loopback := wired,
    resetGives := p.resetGives, resetTakes := p.resetTakes }

/-- What the host does at a statement: it drives its ports for one edge and goes on with the plan given, or it does
something that takes no edge and leaves the environment given. -/
inductive HostAct where
  | drive (h : HostPorts) (plan : List Stim)
  | look (env : Env)
  deriving DecidableEq, Repr

/-- The script has read `a`. -/
def noteAnswer (a : Answer) (env : Env) : Env := { env with answers := env.answers ++ [a] }

/-- Whether bytes remain for `dec.all`: on the transport's stream, or, in `loopback`, on `tx`. -/
def bytesRemain (s : State) : Bool := if s.env.wired then txValid s.enc.encState else !s.env.rxQueue.isEmpty

/-- The host's act at a statement (30_encoding.md R93), the rest of its plan being `s.env.stims`. The ports driven are
those of the operation the statement stands for; entries of `enc_data_in` beyond those listed are `0x00`; `tx.expect`
looks at the bytes that have fired on `tx` since the last one. Log entry 10. -/
def Stmt.act (st : Stmt) (s : State) : HostAct :=
  match st with
  | .reset => .drive (Instr.drive .rst).host s.env.stims
  | .crcClr => .drive (Instr.drive .crcClr).host s.env.stims
  | .crcPut b => .drive (Instr.drive (.crcUpd b)).host s.env.stims
  | .crcGet => .look (noteAnswer (.value (outputs s).crcQ) s.env)
  | .encSend id len data =>
    .drive (Instr.drive (.encLoad id len (Payload.ofList data))).host
      (.stmt (if encReady s.enc.encState then .encAwait else .encSend id len data) :: s.env.stims)
  | .encAwait =>
    if encBusy s.enc.encState then .drive HostPorts.quiet (.stmt .encAwait :: s.env.stims) else .look s.env
  | .txExpect bs =>
    .look (noteAnswer (.sent (s.env.txSent.drop s.env.txSeen == bs)) { s.env with txSeen := s.env.txSent.length })
  | .rxFeed bs => .look { s.env with rxQueue := s.env.rxQueue ++ bs }
  | .decTry =>
    if decBusy s.dec.decState then .drive HostPorts.quiet (.stmt .decTry :: s.env.stims)
    else .drive (Instr.drive .decStart).host (.stmt .decAwait :: s.env.stims)
  | .decAwait =>
    match attemptResult s.dec with
    | some r => .look (noteAnswer (.result r) s.env)
    | none => .drive HostPorts.quiet (.stmt .decAwait :: s.env.stims)
  | .decAll =>
    if bytesRemain s then .look { s.env with stims := .stmt .decTry :: .stmt .decAll :: s.env.stims } else .look s.env
  | .sendAndTry id len data =>
    if encReady s.enc.encState && !decBusy s.dec.decState then
      .drive { (Instr.drive (.encLoad id len (Payload.ofList data))).host with decStart := true }
        (.stmt .encAwait :: .stmt .decAwait :: s.env.stims)
    else .drive HostPorts.quiet (.stmt (.sendAndTry id len data) :: s.env.stims)
  | .loopback => .look { s.env with wired := true }

/-- One step of a script at a statement already removed from the plan. -/
def stmtStep (st : Stmt) (s : State) : Host.Outcome State Fault Refusal :=
  match st.act s with
  | .drive h plan =>
    edgeStep (hostEdge h (nextPace s.env).1 s.env.wired) { s with env := { (nextPace s.env).2 with stims := plan } }
  | .look env => .next { s with env := env }

/-- A script as a plan. -/
def script (p : List Stmt) : List Stim := p.map .stmt

/-- `crc.of [b0, ..., bn]` (30_encoding.md R93). -/
def crcOf (bs : List Byte) : List Stmt := .crcClr :: (bs.map .crcPut ++ [.crcGet])

/-- `withChecksum(f)` (30_encoding.md R93). -/
def withChecksum (f : Frame) : List Stmt := crcOf f.body

/-! ### Edges -/

/-- An edge at which the transport accepts on `tx`. -/
def Edge.accept : Edge := { Edge.quiet with txReady := true }

/-- An edge with `rst = 1`. -/
def Edge.reset : Edge := { Edge.quiet with host := (Instr.drive .rst).host }

/-- An edge with `crc_en = 1`. -/
def Edge.crcPut (b : Byte) : Edge := { Edge.quiet with host := (Instr.drive (.crcUpd b)).host }

/-- An edge that offers a frame. -/
def Edge.load (id len : Byte) (d : Payload) : Edge := { Edge.quiet with host := (Instr.drive (.encLoad id len d)).host }

/-- An edge with `dec_start = 1`. -/
def Edge.start : Edge := { Edge.quiet with host := (Instr.drive .decStart).host }

/-- A frame sent and an attempt begun at the same edge of a `loopback` (95_test_vectors.md P1): the two commands, then
an edge for each byte. -/
def loopbackStims (id len : Byte) (d : Payload) : List Stim :=
  .edge { Edge.load id len d with
    loopback := true
    host := { (Edge.load id len d).host with decStart := true } } ::
    List.replicate (4 + len.toNat) (.edge { Edge.quiet with loopback := true })

end Sys2Proof.Machine
end

