-- ==== Sys2Proof/Machine/Step.lean ====
section
/-! DEFINITION. The step: the next thing the environment does. -/

namespace Sys2Proof.Machine

/-- The next thing the environment does, and the environment once that is taken from its plan. With the plan done it is
quiet, every input at 0, or goes on for ever with the free value `Config.laterStim` (20_memory.md R63; log entry 1). -/
def nextStim (env : Env) : Stim × Env :=
  match env.stims with
  | x :: rest => (x, { env with stims := rest })
  | [] =>
    match env.after with
    | .quiet => (.edge Edge.quiet, env)
    | .free n => (Config.laterStim n, { env with after := .free (n + 1) })

/-- One thing the environment does, already removed from its plan. -/
def stimStep (x : Stim) (s : State) : Host.Outcome State Fault Refusal :=
  match x with
  | .edge e => edgeStep e s
  | .recv => recvStep s
  | .feed bs => .next (withRxQueue (s.env.rxQueue ++ bs) s)
  | .stmt st => stmtStep st s

/-- One step. -/
def step (s : State) : Host.Outcome State Fault Refusal :=
  stimStep (nextStim s.env).1 { s with env := (nextStim s.env).2 }

/-- `s` with a word of the opcode table placed so that the very next step runs it: log entry 3. -/
def State.withFetchWord (s : State) (nbits w : Nat) : State := placeWord s nbits w

end Sys2Proof.Machine
end

