-- ==== Sys2Proof/Safety.lean ====
section
/-! DEFINITION. What claims about a run speak of: when a run is finished, blocked or faulted (70_reset_and_hazards.md R236),
the invariants of 10_state.md R38, and the three refinement rules as relations between the registers and the record of
what has moved (40_crc8.md R119; 41_encoder.md R143; 42_decoder.md R181, R184). -/

namespace Sys2Proof.Machine

/-- The run is finished: both units free, and the host has no further statement (70_reset_and_hazards.md R236). DESIGN
CHOICE: R236 speaks of a run of a host script; here any act still planned or still to come counts as a statement left,
an edge or a delivery of the transport's too, while bytes on its stream do not; log entry 12. -/
def State.finished (s : State) : Prop :=
  s.enc.encState = .encIdle ∧ s.dec.decState.reading = false ∧ s.env.stims = [] ∧ s.env.after = .quiet

/-- The run is blocked: a unit waits on the transport (70_reset_and_hazards.md R236). -/
def State.blocked (s : State) : Prop :=
  s.enc.encState ≠ .encIdle ∨ s.dec.decState.reading = true

/-- The run is faulted in this state: `enc_fault = 1`, finished or not (60_exceptions.md R209; 70_reset_and_hazards.md
R236). -/
def State.faulted (s : State) : Prop := s.enc.encFault = true

/-- A run of `k` steps is faulted: the flag is set in one of its states. RST clears the flag, so the last state alone
does not tell (60_exceptions.md R209; 41_encoder.md R134). -/
def RunFaulted (k : Nat) (s : State) : Prop :=
  ∃ j : Nat, j ≤ k ∧ ∃ t : State, Host.Core.run Sys2Proof.core j s = .next t ∧ t.faulted

/-- Every payload entry from `n` on is `0x00`. -/
def zeroFrom (d : Payload) (n : Nat) : Prop :=
  ∀ i : Index, n ≤ i.toNat → i.toNat < 8 → d.get i = 0x00

/-- 10_state.md R38, clauses I1 to I8 as they stand there. -/
structure Rule38 (s : State) : Prop where
  i1 : s.enc.encLenR.toNat ≤ 8
  i2 : s.enc.encIdx.toNat ≤ s.enc.encLenR.toNat ∧
    (s.enc.encState = .encData → s.enc.encIdx.toNat < s.enc.encLenR.toNat) ∧
    (s.enc.encState = .encCrc → s.enc.encIdx.toNat = s.enc.encLenR.toNat)
  i3 : (s.enc.encState = .encId → s.enc.encCrc = 0x00) ∧
    (s.enc.encState = .encLen → s.enc.encCrc = crc8 [s.enc.encIdR]) ∧
    (s.enc.encState = .encData →
      s.enc.encCrc = crc8 ([s.enc.encIdR, s.enc.encLenR] ++ s.enc.encDataR.upTo s.enc.encIdx.toNat)) ∧
    (s.enc.encState = .encCrc →
      s.enc.encCrc = crc8 ([s.enc.encIdR, s.enc.encLenR] ++ s.enc.encDataR.upTo s.enc.encLenR.toNat))
  i4 : (s.dec.decState = .readData ∨ s.dec.decState = .readChecksum ∨ s.dec.decState = .accepted →
      s.dec.decLenR.toNat ≤ 8) ∧
    (s.dec.decLenR.toNat ≤ 8 → s.dec.decIdx.toNat ≤ s.dec.decLenR.toNat) ∧
    (s.dec.decState = .readData → s.dec.decIdx.toNat < s.dec.decLenR.toNat) ∧
    (s.dec.decState = .readChecksum ∨ s.dec.decState = .accepted → s.dec.decIdx.toNat = s.dec.decLenR.toNat)
  i5 : (s.dec.decState = .readLen → s.dec.decCrc = crc8 [s.dec.decIdR]) ∧
    (s.dec.decState = .readData ∨ s.dec.decState = .readChecksum ∨ s.dec.decState = .accepted →
      s.dec.decCrc = crc8 ([s.dec.decIdR, s.dec.decLenR] ++ s.dec.decDataR.upTo s.dec.decIdx.toNat))
  i6 : s.dec.decState = .accepted →
    s.dec.decCrcRx = s.dec.decCrc ∧ decErr s.dec.decErrR = 0 ∧ zeroFrom s.dec.decDataR s.dec.decLenR.toNat
  i7 : decErr s.dec.decErrR ≠ 0 ↔ s.dec.decState = .rejected
  i8 : s.dec.decState = .rejected →
    (decErr s.dec.decErrR = 2 → 8 < s.dec.decLenR.toNat) ∧ (decErr s.dec.decErrR = 3 → s.dec.decCrcRx ≠ s.dec.decCrc)

/-- The part of 10_state.md R38 about `ENC`, with what the states before `EncData` need so that every operation keeps
it: until the first payload byte the index is 0, and in `EncStart` the checksum register is 0. -/
def EncInv (e : Enc) : Prop :=
  e.encLenR.toNat ≤ 8 ∧ e.encIdx.toNat ≤ e.encLenR.toNat ∧
    match e.encState with
    | .encIdle => True
    | .encStart => e.encIdx = 0 ∧ e.encCrc = 0x00
    | .encId => e.encIdx = 0 ∧ e.encCrc = 0x00
    | .encLen => e.encIdx = 0 ∧ e.encCrc = crc8 [e.encIdR]
    | .encData =>
      e.encIdx.toNat < e.encLenR.toNat ∧
        e.encCrc = crc8 (e.encIdR :: e.encLenR :: e.encDataR.upTo e.encIdx.toNat)
    | .encCrc =>
      e.encIdx.toNat = e.encLenR.toNat ∧
        e.encCrc = crc8 (e.encIdR :: e.encLenR :: e.encDataR.upTo e.encLenR.toNat)

/-- What an attempt's registers hold once ID, LEN and `dec_idx` payload bytes have been taken. -/
def DecBody (d : Dec) : Prop :=
  d.decLenR.toNat ≤ 8 ∧ d.decCrc = crc8 (d.decIdR :: d.decLenR :: d.decDataR.upTo d.decIdx.toNat) ∧
    zeroFrom d.decDataR d.decIdx.toNat

/-- The part of 10_state.md R38 about `DEC`, with what the states before `ReadData` need so that every operation keeps
it: until the first payload byte the index and the payload are zero, and until the ID the checksum register is 0. -/
def DecInv (d : Dec) : Prop :=
  (d.decLenR.toNat ≤ 8 → d.decIdx.toNat ≤ d.decLenR.toNat) ∧
    match d.decState with
    | .decIdle => d.decErrR = none
    | .awaitStart =>
      d.decErrR = none ∧ d.decIdx = 0 ∧ d.decLenR = 0x00 ∧ d.decCrc = 0x00 ∧ zeroFrom d.decDataR 0
    | .readId => d.decErrR = none ∧ d.decIdx = 0 ∧ d.decLenR = 0x00 ∧ d.decCrc = 0x00 ∧ zeroFrom d.decDataR 0
    | .readLen => d.decErrR = none ∧ d.decIdx = 0 ∧ d.decCrc = crc8 [d.decIdR] ∧ zeroFrom d.decDataR 0
    | .readData => d.decErrR = none ∧ d.decIdx.toNat < d.decLenR.toNat ∧ DecBody d
    | .readChecksum => d.decErrR = none ∧ d.decIdx.toNat = d.decLenR.toNat ∧ DecBody d
    | .accepted => d.decErrR = none ∧ d.decIdx.toNat = d.decLenR.toNat ∧ DecBody d ∧ d.decCrcRx = d.decCrc
    | .rejected =>
      d.decErrR ≠ none ∧ (d.decErrR = some .lengthOutOfRange → 8 < d.decLenR.toNat) ∧
        (d.decErrR = some .checksumMismatch → d.decCrcRx ≠ d.decCrc)

/-- The refinement of 40_crc8.md R119: the register is the checksum of the bytes folded since the last clear. -/
def CrcTrace (s : State) : Prop := s.crcu.crcQ = crc8 s.hist.crcFed

/-- The frame in the encoder's latch registers (41_encoder.md R133). -/
def encFrame (e : Enc) : Frame := Frame.ofPayload e.encIdR e.encDataR e.encLenR.toNat

/-- The wire position of the byte the encoder offers: how many bytes of the frame have fired (10_state.md R29;
20_memory.md R69). -/
def encPosition (e : Enc) : Nat :=
  match e.encState with
  | .encIdle => 0
  | .encStart => 0
  | .encId => 1
  | .encLen => 2
  | .encData => 3 + e.encIdx.toNat
  | .encCrc => 3 + e.encLenR.toNat

/-- The refinement of 41_encoder.md R143: the bytes fired since reset are the encodings of the loaded frames in load
order, the last one up to the encoder's position while it is in flight. -/
def EncTrace (s : State) : Prop :=
  if s.enc.encState = .encIdle then s.hist.txFired = s.hist.loaded.flatMap Frame.encode
  else
    ∃ before : List Frame, s.hist.loaded = before ++ [encFrame s.enc] ∧
      s.hist.txFired = before.flatMap Frame.encode ++ (encFrame s.enc).encode.take (encPosition s.enc)

/-- The bytes taken since the last DEC.START, read off the decoder's registers; in `Rejected`, the bytes on which
`decode` ends with the failure recorded. -/
def DecTrace (s : State) : Prop :=
  match s.dec.decState with
  | .decIdle => s.hist.rxTaken = []
  | .awaitStart => s.hist.rxTaken = []
  | .readId => s.hist.rxTaken = [Config.start]
  | .readLen => s.hist.rxTaken = [Config.start, s.dec.decIdR]
  | .readData =>
    s.hist.rxTaken = Config.start :: s.dec.decIdR :: s.dec.decLenR :: s.dec.decDataR.upTo s.dec.decIdx.toNat
  | .readChecksum =>
    s.hist.rxTaken = Config.start :: s.dec.decIdR :: s.dec.decLenR :: s.dec.decDataR.upTo s.dec.decIdx.toNat
  | .accepted => s.hist.rxTaken = (decFrame s.dec).encode
  | .rejected =>
    ∃ e : DecodeError, s.dec.decErrR = some e ∧ decode s.hist.rxTaken = .done (.err e) s.hist.rxTaken.length

/-- The refinement of 42_decoder.md R181: `decode` of the bytes taken since DEC.START says where the decoder is. -/
def DecRefines (s : State) : Prop :=
  match s.dec.decState with
  | .decIdle => s.hist.rxTaken = []
  | .awaitStart => decode s.hist.rxTaken = .pending .awaitStart 0
  | .readId => decode s.hist.rxTaken = .pending .readId 0
  | .readLen => decode s.hist.rxTaken = .pending .readLen 0
  | .readData => decode s.hist.rxTaken = .pending .readData s.dec.decIdx.toNat
  | .readChecksum => decode s.hist.rxTaken = .pending .readChecksum 0
  | .accepted => decode s.hist.rxTaken = .done (.ok (decFrame s.dec)) s.hist.rxTaken.length
  | .rejected =>
    ∃ e : DecodeError, s.dec.decErrR = some e ∧ decode s.hist.rxTaken = .done (.err e) s.hist.rxTaken.length

/-- The bytes `done` hold whole attempts with the results `rs`: whatever follows them, `decode_all` gives those results
first and then goes on with what follows (42_decoder.md R184). -/
def Consumed (taken : List Byte) (rs : List Result) : Prop :=
  ∀ t : List Byte, decodeAll (taken ++ t) = rs ++ decodeAll t

/-- The refinement of 42_decoder.md R184: the results recorded since reset are `decode_all` of the bytes taken, apart
from an attempt in flight, whose bytes stand at the end. -/
def ResultsTrace (s : State) : Prop :=
  if s.dec.decState.reading then
    ∃ before : List Byte, s.hist.rxAll = before ++ s.hist.rxTaken ∧ Consumed before s.hist.results
  else Consumed s.hist.rxAll s.hist.results

/-- The invariant of the whole machine. -/
structure Inv (s : State) : Prop where
  enc     : EncInv s.enc
  dec     : DecInv s.dec
  crcFed  : CrcTrace s
  fired   : EncTrace s
  taken   : DecTrace s
  results : ResultsTrace s

end Sys2Proof.Machine
end

