-- ==== Sys2Proof/Certificates/Slice0/Obligations.lean ====
section
/-! DEFINITION. The statements for the provers: the checksum functions, the functional level, decoding, each operation, the
whole machine's rules, and the invariants and refinements of the cycle level. -/

open Sys2Proof Sys2Proof.Machine

/-! ### The checksum functions -/

/-- 40_crc8.md R110, R111, R112: the shift step tests bit 7 before the shift, a byte is folded in whole and shifted eight
times, a sequence is a left fold from `0x00`; with the rules' examples. -/
def Obligations.CrcFunctionsFollowTheAlgorithm : Prop :=
  (∀ c : Byte, (crc8Bit c).toNat =
      if 128 ≤ c.toNat then Nat.xor (2 * c.toNat % 256) 7 else 2 * c.toNat % 256) ∧
    (crc8Bit 0x40 = 0x80 ∧ crc8Bit 0x80 = 0x07 ∧ crc8Bit 0xFF = 0xF9 ∧ crc8Bit 0x00 = 0x00) ∧
    (∀ c b : Byte, crc8Update c b = crc8Bit^[8] (c ^^^ b)) ∧
    (List.range 8).map (fun k => crc8Bit^[k + 1] 0x10) = [0x20, 0x40, 0x80, 0x07, 0x0E, 0x1C, 0x38, 0x70] ∧
    crc8Update 0x00 0x10 = 0x70 ∧
    crc8 [] = 0x00 ∧
    (∀ (bs : List Byte) (b : Byte), crc8 (bs ++ [b]) = crc8Update (crc8 bs) b) ∧
    (List.range 5).map (fun k => crc8 ([0x10, 0x03, 0x11, 0x22, 0x33].take (k + 1))) = [0x70, 0x5E, 0xEA, 0x76, 0xDC]

/-- 40_crc8.md R113: two bytes may be exchanged without changing the checksum exactly when their exclusive-or is `0x00` or
`0xFD`, the two bytes that `T` fixes. -/
def Obligations.CrcIsOrderSensitiveUpToTwoFixedPoints : Prop :=
  (∀ y : Byte, crc8T y = y ↔ y = 0x00 ∨ y = 0xFD) ∧
    (∀ a b : Byte, crc8 [a, b] = crc8T (crc8T a ^^^ b)) ∧
    (∀ a b : Byte, crc8 [a, b] = crc8 [b, a] ↔ a ^^^ b = 0x00 ∨ a ^^^ b = 0xFD) ∧
    crc8 [0x01, 0x02] = 0x1B ∧ crc8 [0x02, 0x01] = 0x2D ∧ crc8 [0x00, 0xFD] = 0xFD ∧ crc8 [0xFD, 0x00] = 0xFD

/-- 40_crc8.md R116, laws L1 to L5 of `crc8_update`. -/
def Obligations.CrcUpdateIsLinearAndBijective : Prop :=
  (∀ c b : Byte, crc8Update c b = crc8T (c ^^^ b)) ∧
    (∀ x y : Byte, crc8T (x ^^^ y) = crc8T x ^^^ crc8T y) ∧ crc8T 0x00 = 0x00 ∧
    (crc8T 0x01 = 0x07 ∧ crc8T 0x02 = 0x0E ∧ crc8T 0x04 = 0x1C ∧ crc8T 0x08 = 0x38 ∧
      crc8T 0x10 = 0x70 ∧ crc8T 0x20 = 0xE0 ∧ crc8T 0x40 = 0xC7 ∧ crc8T 0x80 = 0x89) ∧
    (∀ f : Byte → Byte, (∀ x y : Byte, f (x ^^^ y) = f x ^^^ f y) →
      f 0x01 = 0x07 → f 0x02 = 0x0E → f 0x04 = 0x1C → f 0x08 = 0x38 → f 0x10 = 0x70 → f 0x20 = 0xE0 → f 0x40 = 0xC7 →
      f 0x80 = 0x89 → f = crc8T) ∧
    Function.Bijective crc8T ∧ (∀ b : Byte, Function.Bijective (fun c => crc8Update c b)) ∧
    (∀ c : Byte, Function.Bijective (fun b => crc8Update c b)) ∧
    ∀ c b : Byte,
      let x := fun i => (c ^^^ b).getLsbD i
      let r := fun i => (crc8Update c b).getLsbD i
      r 0 = (x 0 ^^ x 6 ^^ x 7) ∧ r 1 = (x 0 ^^ x 1 ^^ x 6) ∧ r 2 = (x 0 ^^ x 1 ^^ x 2 ^^ x 6) ∧
        r 3 = (x 1 ^^ x 2 ^^ x 3 ^^ x 7) ∧ r 4 = (x 2 ^^ x 3 ^^ x 4) ∧ r 5 = (x 3 ^^ x 4 ^^ x 5) ∧
        r 6 = (x 4 ^^ x 5 ^^ x 6) ∧ r 7 = (x 5 ^^ x 6 ^^ x 7)

/-- 40_crc8.md R117, laws S1 to S5 of `crc8` on sequences. -/
def Obligations.CrcSequenceLaws : Prop :=
  (∀ xs ys : List Byte, crc8 (xs ++ ys) = ys.foldl crc8Update (crc8 xs)) ∧
    (∀ xs : List Byte, crc8 (xs ++ [crc8 xs]) = 0x00) ∧ (∀ c : Byte, crc8Update c c = 0x00) ∧
    (∀ xs : List Byte, crc8 (0x00 :: xs) = crc8 xs) ∧ crc8 [0x00, 0x00] = 0x00 ∧
    validFrame [0xAA, 0x00, 0x00, 0x00] = true ∧
    (∀ (pre post : List Byte) (a b : Byte), a ≠ b → crc8 (pre ++ a :: post) ≠ crc8 (pre ++ b :: post)) ∧
    ∀ xs ys : List Byte, xs.length = ys.length → crc8 (List.zipWith (· ^^^ ·) xs ys) = crc8 xs ^^^ crc8 ys

/-- 42_decoder.md R183: the test `b = dec_crc` is the test that folding `b` in gives zero. -/
def Obligations.ChecksumTestEqualsZeroResidue : Prop :=
  (∀ c b : Byte, crc8Update c b = 0x00 ↔ b = c) ∧
    ∀ (crc b : Byte), selectDecByte .readChecksum crc b =
      if crc8Update crc b = 0x00 then .decCrcOk b else .decCrcBad b

/-! ### The functional level -/

/-- 41_encoder.md R130: what `encode` emits, in order. A frame holds at most 8 payload bytes (00_scope.md R10), so there is
no other argument. -/
def Obligations.EncodeEmitsStartIdLenDataChecksum : Prop :=
  (∀ f : Frame, f.len.toNat = f.data.length ∧ f.len.toNat ≤ 8) ∧
    (∀ f : Frame,
      f.encode = [0xAA, f.id, BitVec.ofNat 8 f.data.length] ++ f.data ++
        [crc8 ([f.id, BitVec.ofNat 8 f.data.length] ++ f.data)]) ∧
    (Frame.mk 0x10 [0x11, 0x22, 0x33]).encode = [0xAA, 0x10, 0x03, 0x11, 0x22, 0x33, 0xDC]

/-- 41_encoder.md R131, properties E1 to E6 (E2 and E7: `encode` is a total function of its argument). -/
def Obligations.EncodeIsInjectivePositionalAndValid : Prop :=
  (∀ f : Frame, f.encode.length = 4 + f.data.length ∧ 4 ≤ f.encode.length ∧ f.encode.length ≤ 12) ∧
    (∀ f g : Frame, f.encode = g.encode → f = g) ∧ (∀ f : Frame, validFrame f.encode = true) ∧
    (∀ f : Frame, f.encode[1]? = some f.id ∧ f.encode[2]? = some f.len ∧
      ∀ k : Nat, k < f.data.length → f.encode[3 + k]? = f.data[k]?) ∧
    ∀ (id : Byte) (d d' : Payload) (n : Nat), n ≤ 8 → (∀ i : Index, i.toNat < n → d.get i = d'.get i) →
      (Frame.ofPayload id d n).encode = (Frame.ofPayload id d' n).encode

/-- 30_encoding.md R86: when a byte sequence is a valid frame, that it is then the encoding of the frame read off it, that
valid frames are prefix-free, and that they are neither suffix-free nor absent from each other's bodies. -/
def Obligations.ValidFramesAreEncodingsAndPrefixFree : Prop :=
  (∀ w : List Byte, validFrame w = true ↔
    4 ≤ w.length ∧ w[0]? = some 0xAA ∧
      (∃ len : Byte, w[2]? = some len ∧ len.toNat ≤ 8 ∧ w.length = 4 + len.toNat) ∧
      w.getLast? = some (crc8 (w.dropLast.drop 1))) ∧
    (∀ w : List Byte, validFrame w = true ↔ ∃ f : Frame, w = f.encode) ∧
    (∀ w : List Byte, validFrame w = true →
      ∃ f : Frame, f.id = w.getD 1 0x00 ∧ f.len = w.getD 2 0x00 ∧
        f.data = (w.drop 3).take (w.getD 2 0x00).toNat ∧ w = f.encode) ∧
    (∀ w v : List Byte, validFrame w = true → validFrame (w ++ v) = true → v = []) ∧
    (validFrame [0xAA, 0x01, 0x00, 0x15] = true ∧
      validFrame ([0xAA, 0x81, 0x03] ++ [0xAA, 0x01, 0x00, 0x15]) = true) ∧
    validFrame ([0xAA, 0x20, 0x04] ++ [0xAA, 0x01, 0x00, 0x15] ++ [0xD7]) = true

/-- 42_decoder.md R160: the nine cases of `decode`. -/
def Obligations.DecodeHasNineCases : Prop :=
  decode [] = .pending .awaitStart 0 ∧
    (∀ (b : Byte) (t : List Byte), b ≠ 0xAA → decode (b :: t) = .done (.err .badStartByte) 1) ∧
    decode [0xAA] = .pending .readId 0 ∧
    (∀ i : Byte, decode [0xAA, i] = .pending .readLen 0) ∧
    (∀ (i len : Byte) (t : List Byte), 8 < len.toNat →
      decode (0xAA :: i :: len :: t) = .done (.err .lengthOutOfRange) 3) ∧
    (∀ (i len : Byte) (d : List Byte), len.toNat ≤ 8 → d.length < len.toNat →
      decode (0xAA :: i :: len :: d) = .pending .readData d.length) ∧
    (∀ (i len : Byte) (d : List Byte), len.toNat ≤ 8 → d.length = len.toNat →
      decode (0xAA :: i :: len :: d) = .pending .readChecksum 0) ∧
    ∀ (f : Frame) (c : Byte) (t : List Byte),
      decode (0xAA :: f.id :: f.len :: (f.data ++ c :: t)) =
        if c = crc8 (f.id :: f.len :: f.data) then .done (.ok f) (4 + f.data.length)
        else .done (.err .checksumMismatch) (4 + f.data.length)

/-- 42_decoder.md R161, properties D1 to D6: the result depends on the consumed bytes only; how many those are; a success is
exactly a valid frame; a blocked attempt goes on to the next state or ends. -/
def Obligations.DecodeConsumesExactlyItsFrame : Prop :=
  (∀ (s t : List Byte) (r : Result) (n : Nat), decode s = .done r n → decode (s ++ t) = .done r n) ∧
    (∀ (s : List Byte) (r : Result) (n : Nat), decode s = .done r n →
      n ≤ s.length ∧ n ≤ 12 ∧
        match r with
        | .err .badStartByte => n = 1
        | .err .lengthOutOfRange => n = 3
        | .err .checksumMismatch => ∃ len : Byte, s[2]? = some len ∧ len.toNat ≤ 8 ∧ n = 4 + len.toNat
        | .ok _ => ∃ len : Byte, s[2]? = some len ∧ len.toNat ≤ 8 ∧ n = 4 + len.toNat) ∧
    (∀ (b : Byte) (t : List Byte), b ≠ 0xAA → decode (b :: t) = .done (.err .badStartByte) 1) ∧
    (∀ (i len : Byte) (t : List Byte), 8 < len.toNat →
      decode (0xAA :: i :: len :: t) = .done (.err .lengthOutOfRange) 3) ∧
    (∀ (s : List Byte) (n : Nat), (∃ f : Frame, decode s = .done (.ok f) n) ↔
      n ≤ s.length ∧ validFrame (s.take n) = true) ∧
    (∀ (s : List Byte) (n : Nat) (f : Frame), decode s = .done (.ok f) n → s.take n = f.encode) ∧
    ∀ (s : List Byte) (b : Byte) (st : DecState) (k : Nat), decode s = .pending st k →
      (∃ (r : Result) (n : Nat), decode (s ++ [b]) = .done r n) ∨
        (st = .awaitStart ∧ decode (s ++ [b]) = .pending .readId 0) ∨
        (st = .readId ∧ decode (s ++ [b]) = .pending .readLen 0) ∨
        (st = .readLen ∧
          (decode (s ++ [b]) = .pending .readData 0 ∨ decode (s ++ [b]) = .pending .readChecksum 0)) ∨
        (st = .readData ∧
          (decode (s ++ [b]) = .pending .readData (k + 1) ∨ decode (s ++ [b]) = .pending .readChecksum 0))

/-- 42_decoder.md R162, T1 to T5 and the first case of T6: the round trip, and what a change of one byte does. -/
def Obligations.RoundTripAndSingleByteCorruption : Prop :=
  (∀ (f : Frame) (t : List Byte), decode (f.encode ++ t) = .done (.ok f) (4 + f.data.length)) ∧
    (∀ (f : Frame) (c : Byte), c ≠ f.checksum →
      decode (f.encode.set (3 + f.data.length) c) = .done (.err .checksumMismatch) (4 + f.data.length)) ∧
    (∀ (f : Frame) (k : Nat) (b : Byte), k < f.data.length → f.data[k]? ≠ some b →
      decode (f.encode.set (3 + k) b) = .done (.err .checksumMismatch) (4 + f.data.length)) ∧
    (∀ (f : Frame) (b : Byte), b ≠ f.id →
      decode (f.encode.set 1 b) = .done (.err .checksumMismatch) (4 + f.data.length)) ∧
    (∀ (f : Frame) (b : Byte), b ≠ 0xAA →
      decode (f.encode.set 0 b) = .done (.err .badStartByte) 1) ∧
    ∀ (f : Frame) (b : Byte), 8 < b.toNat →
      decode (f.encode.set 2 b) = .done (.err .lengthOutOfRange) 3

/-! ### Decoding -/

/-- 30_encoding.md R89 to R91 and 40_crc8.md R118: the conditions of the opcode table's rows are exhaustive and exclusive.
At every edge the selected operations are exactly the ones whose row applies, one for each unit or RST alone. -/
def Obligations.SelectionIsExhaustiveAndExclusive : Prop :=
  (∀ (i : Instr) (est : EncState) (dst : DecState) (crc : Byte) (p : Ports),
    i.applies est dst crc p = true ↔ i ∈ selected est dst crc p) ∧
    ∀ (est : EncState) (dst : DecState) (crc : Byte) (p : Ports),
      (p.host.rst = true → selected est dst crc p = [.rst]) ∧
        (p.host.rst = false → (selected est dst crc p).map Instr.unit = [.crcu, .enc, .dec])

/-- The operations' round trip: the port activity that stands for an operation (30_encoding.md R93; the port column of R90, R91
and 40_crc8.md R118) selects exactly that operation in every state where its row can apply at all. -/
def Obligations.DrivingSelectsTheOperation : Prop :=
  ∀ (i : Instr) (est : EncState) (dst : DecState) (crc : Byte), (∃ p : Ports, i.applies est dst crc p = true) →
    i ∈ selected est dst crc i.drive ∧
      ∀ j : Instr, j.unit = i.unit → j ∈ selected est dst crc i.drive → j = i

/-- 30_encoding.md R94: in `AwaitStart` and in `ReadLen` every byte value matches exactly one row of the opcode table, the
row of the operation that takes it. -/
def Obligations.TableRowsPartitionTheBytes : Prop :=
  ∀ (b crc : Byte),
    (∃ r : ByteRow, awaitStartRows.filter (fun r => r.matchesByte b) = [r] ∧
      r.mnemonic = (selectDecByte .awaitStart crc b).mnemonic) ∧
    ∃ r : ByteRow, readLenRows.filter (fun r => r.matchesByte b) = [r] ∧
      r.mnemonic = (selectDecByte .readLen crc b).mnemonic

/-- Words written out from 30_encoding.md R81 and the opcode table decode to what they stand for: a sanity statement. THE
MODEL'S CHOICE (log entry 3): that a one-byte table word is read in `AwaitStart`, and a longer one as a frame, its first
byte the most significant. -/
def Obligations.WrittenOutWordsDecode : Prop :=
  decodeTableWord 32 0xAAFF00D7 = some (.frameL0 0xFF 0xD7) ∧
    decodeTableWord 56 0xAA1003112233DC = some (.frameL3 0x10 0x11 0x22 0x33 0xDC) ∧
    decodeTableWord 96 0xAA00080102030405060708FF =
      some (.frameL8 0x00 0x01 0x02 0x03 0x04 0x05 0x06 0x07 0x08 0xFF) ∧
    decodeTableWord 32 0xAB000000 = none ∧ decodeTableWord 32 0xAA000900 = none ∧
    decodeTableWord 8 0xAA = some .decSofOk ∧ decodeTableWord 8 0xAB = some (.decSofBad 0xAB) ∧
    selectDecByte .readLen 0x00 0x08 = .decRdLenNz 0x08 ∧ selectDecByte .readLen 0x00 0x09 = .decRdLenBad 0x09

/-- Every frame format's bytes, with any values of its letters and whatever follows, read back as that frame
(30_encoding.md R80 to R83): no bit of a frame is dropped. -/
def Obligations.WireRoundTrip : Prop :=
  ∀ (i : Instr) (t : List Byte), i.isFrame = true → decodeWire (encode i ++ t) = .frame i t

/-- The other direction, and the reasons bytes are no frame (30_encoding.md R85; 42_decoder.md R160). -/
def Obligations.WireReadingIsSound : Prop :=
  (∀ (s t : List Byte) (i : Instr), decodeWire s = .frame i t → i.isFrame = true ∧ s = encode i ++ t) ∧
    (∀ s : List Byte, decodeWire s = .reject .badStartByte ↔ decode s = .done (.err .badStartByte) 1) ∧
    (∀ s : List Byte, decodeWire s = .reject .lengthOutOfRange ↔ decode s = .done (.err .lengthOutOfRange) 3) ∧
    ∀ (s : List Byte) (st : DecState) (k : Nat),
      decodeWire s = .reject (.truncated st k) ↔ decode s = .pending st k

/-- A frame read from the wire is well-formed exactly when `decode` accepts it, and otherwise `decode` reports
ChecksumMismatch (30_encoding.md R85, R86; 42_decoder.md R160). -/
def Obligations.WellFormedFramesAreTheAcceptedOnes : Prop :=
  ∀ (i : Instr) (f : Frame) (c : Byte) (t : List Byte), i.frameParts = some (f, c) →
    encode i = [0xAA, f.id, f.len] ++ f.data ++ [c] ∧
      (i.wf = true ↔ encode i = f.encode) ∧
      decode (encode i ++ t) =
        if i.wf then .done (.ok f) (4 + f.data.length) else .done (.err .checksumMismatch) (4 + f.data.length)

/-! ### A step runs what is selected or fetched -/

/-- At an edge the step performs the selected operations, from the state before the edge, with the transport's side of
the edge done beside them; RST alone at a reset edge (30_encoding.md R89; 00_scope.md R9; 20_memory.md R71). The
environment's plan is log entry 1. -/
def Obligations.StepRunsTheSelectedOperations : Prop :=
  ∀ (s : State) (e : Edge) (rest : List Stim), s.env.stims = .edge e :: rest →
    (e.host.rst = true → step s = exec .rst (transport e (withStims rest s))) ∧
      (e.host.rst = false →
        step s =
          andThen (exec (selectCrcu e.host) (transport e (withStims rest s))) (fun s1 =>
            andThen (exec (selectEnc s.enc.encState (edgePorts e s)) s1) (fun s2 =>
              exec (selectDec s.dec.decState s.dec.decCrc (edgePorts e s)) s2)))

/-- A reception fetches the frame at the head of the transport's stream (30_encoding.md R82) and the step is `exec` of it;
with no whole frame there, the bytes that have arrived are offered one by one (42_decoder.md R160). Every clause is
THE MODEL'S OWN: that a reception takes a whole frame, or what bytes there are, in one step is log entry 5; bytes that
arrive, and a plan that is done, with the environment quiet or going on for ever, are log entry 1. -/
def Obligations.StepRunsTheFetchedFrame : Prop :=
  ∀ (s : State) (rest : List Stim),
    (∀ (i : Instr) (q : List Byte), s.env.stims = .recv :: rest → decodeWire s.env.rxQueue = .frame i q →
      step s = exec i (withRxQueue q (withStims rest s))) ∧
    (∀ why : WireReject, s.env.stims = .recv :: rest → decodeWire s.env.rxQueue = .reject why →
      step s = .next (receive s.env.rxQueue (withRxQueue [] (withStims rest s)))) ∧
    (∀ bs : List Byte, s.env.stims = .feed bs :: rest →
      step s = .next (withRxQueue (s.env.rxQueue ++ bs) (withStims rest s))) ∧
    (s.env.stims = [] → s.env.after = .quiet → step s = step (withStims [.edge Edge.quiet] s)) ∧
    ∀ n : Nat, s.env.stims = [] → s.env.after = .free n →
      step s = step { s with env := { s.env with stims := [Config.laterStim n], after := .free (n + 1) } }

/-- A frame executed whole is the same as its bytes offered at as many consecutive edges with no command: from every
state, whatever the units are doing (20_memory.md R61; 30_encoding.md R80). Executing a frame whole is the model's own
(log entry 5). -/
def Obligations.FrameIsItsEdges : Prop :=
  ∀ (i : Instr) (s : State) (q : List Byte) (rest : List Stim), i.isFrame = true →
    s.env.rxQueue = encode i ++ q →
    Host.Core.run Sys2Proof.core (encode i).length
        (withStims (List.replicate (encode i).length (.edge Edge.offer) ++ rest) s) =
      exec i (withRxQueue q (withStims rest s))

/-! ### Reset -/

/-- 10_state.md R37: the reset values, and the outputs after reset. -/
def Obligations.ResetValues : Prop :=
  State.reset.crcu.crcQ = 0x00 ∧
    (State.reset.enc.encState = .encIdle ∧ State.reset.enc.encIdR = 0x00 ∧ State.reset.enc.encLenR = 0x00 ∧
      (∀ i : Index, i.toNat < 8 → State.reset.enc.encDataR.get i = 0x00) ∧ State.reset.enc.encIdx = 0 ∧
      State.reset.enc.encCrc = 0x00 ∧ State.reset.enc.encFault = false) ∧
    (State.reset.dec.decState = .decIdle ∧ decErr State.reset.dec.decErrR = 0 ∧ State.reset.dec.decIdR = 0x00 ∧
      State.reset.dec.decLenR = 0x00 ∧ (∀ i : Index, i.toNat < 8 → State.reset.dec.decDataR.get i = 0x00) ∧
      State.reset.dec.decIdx = 0 ∧ State.reset.dec.decCrc = 0x00 ∧ State.reset.dec.decCrcRx = 0x00) ∧
    ((outputs State.reset).crcQ = 0x00 ∧ (outputs State.reset).encReady = true ∧
      (outputs State.reset).encBusy = false ∧ (outputs State.reset).encFault = false ∧
      (outputs State.reset).txValid = false ∧ (outputs State.reset).rxReady = false ∧
      (outputs State.reset).decBusy = false ∧ (outputs State.reset).decDone = false ∧
      (outputs State.reset).decOk = false ∧ (outputs State.reset).decErr = 0)

/-- 70_reset_and_hazards.md R230, R232, R233: RST gives every register its reset value, whatever else the ports say;
no handshake fires for the block; the transport's side is not touched but for the transfers it may count at that edge.
The clauses on `hist`, on what the transport counts and on the list of fired bytes are the model's own (log entries 2, 6 and
10). -/
def Obligations.RstResetsEveryRegisterAndOverrides : Prop :=
  (∀ s : State, exec .rst s = .next { State.reset with env := s.env }) ∧
    ∀ (s : State) (e : Edge) (rest : List Stim), s.env.stims = .edge e :: rest → e.host.rst = true →
      rxFire (edgePorts e s) s = false ∧ txFire (edgePorts e s) s = false ∧ encFire (edgePorts e s) s = false ∧
        ∃ t : State, step s = .next t ∧ t.crcu = State.reset.crcu ∧ t.enc = State.reset.enc ∧
          t.dec = State.reset.dec ∧ t.hist = History.empty ∧
          (e.resetGives = false → t.env.rxQueue = s.env.rxQueue) ∧
          (e.resetTakes = false → t.env.txLine = s.env.txLine) ∧ t.env.txSent = s.env.txSent

/-! ### CRCU -/

/-- 40_crc8.md R118, R120: CRC.CLR and CRC.HOLD, with their selection. The clauses on `hist` are the model's own (log
entry 2). -/
def Obligations.CrcClrAndHold : Prop :=
  (∀ h : HostPorts, h.crcClr = true → selectCrcu h = .crcClr) ∧
    (∀ h : HostPorts, h.crcClr = false → h.crcEn = true → selectCrcu h = .crcUpd h.crcDin) ∧
    (∀ h : HostPorts, h.crcClr = false → h.crcEn = false → selectCrcu h = .crcHold) ∧
    (∀ s : State, ∃ t : State, exec .crcClr s = .next t ∧ t.crcu.crcQ = 0x00 ∧ t.enc = s.enc ∧ t.dec = s.dec ∧
      t.env = s.env ∧ t.hist = { s.hist with crcFed := [] }) ∧
    (∀ s : State, exec .crcHold s = .next s) ∧ ∀ s : State, (outputs s).crcQ = s.crcu.crcQ

/-- 40_crc8.md R119: CRC.UPD, and the checksum of a sequence fed between holds after a clear. The clauses on `hist`
are the model's own (log entry 2). -/
def Obligations.CrcUpdFoldsAndRefinesCrc8 : Prop :=
  (∀ (din : Byte) (s : State), ∃ t : State, exec (.crcUpd din) s = .next t ∧
      t.crcu.crcQ = crc8Update s.crcu.crcQ din ∧ t.enc = s.enc ∧ t.dec = s.dec ∧ t.env = s.env ∧
      t.hist = { s.hist with crcFed := s.hist.crcFed ++ [din] }) ∧
    (∀ h : HostPorts, h.crcClr = false → h.crcEn = true → selectCrcu h = .crcUpd h.crcDin) ∧
    (∀ s t : State, exec (.crcUpd s.crcu.crcQ) s = .next t → t.crcu.crcQ = 0x00) ∧
    crc8Update 0x00 0x00 = 0x00 ∧ crc8Update 0x70 0x03 = 0x5E ∧
    (∀ (first : Instr) (l : List (Option Byte)) (s : State), first = .crcClr ∨ first = .rst →
      ∃ t : State,
        execAll (first :: l.map (fun o => match o with | some b => Instr.crcUpd b | none => Instr.crcHold)) s = .next t ∧
          t.crcu.crcQ = crc8 (l.filterMap id))

/-! ### ENC -/

/-- 41_encoder.md R133, R134; 60_exceptions.md R209: ENC.LOAD takes a legal frame whole; ENC.LOAD_FAULT sets the sticky flag
and drops the frame. The clauses on `hist` are the model's own (log entry 2). -/
def Obligations.EncTakesALegalFrameAndDropsAnIllegalOne : Prop :=
  (∀ p : Ports, p.host.encValid = true → p.host.encLen.toNat ≤ 8 →
      selectEnc .encIdle p = .encLoad p.host.encId p.host.encLen p.host.encDataIn) ∧
    (∀ p : Ports, p.host.encValid = true → 8 < p.host.encLen.toNat →
      selectEnc .encIdle p = .encLoadFault p.host.encLen) ∧
    (∀ (id len : Byte) (d : Payload) (s : State), s.enc.encState = .encIdle → len.toNat ≤ 8 →
      ∃ t : State, exec (.encLoad id len d) s = .next t ∧
        t.enc = { encState := .encStart, encIdR := id, encLenR := len, encDataR := d, encIdx := 0, encCrc := 0x00,
                  encFault := s.enc.encFault } ∧
        t.crcu = s.crcu ∧ t.dec = s.dec ∧ t.env = s.env ∧
        t.hist = { s.hist with loaded := s.hist.loaded ++ [Frame.ofPayload id d len.toNat] } ∧
        (outputs s).encReady = true ∧ (outputs s).encBusy = false ∧ (outputs s).txValid = false ∧
        (outputs t).encReady = false ∧ (outputs t).encBusy = true ∧ (outputs t).txValid = true ∧
        (outputs t).txData = 0xAA) ∧
    ∀ (len : Byte) (s : State), s.enc.encState = .encIdle → 8 < len.toNat →
      ∃ t : State, exec (.encLoadFault len) s = .next t ∧ t = { s with enc := { s.enc with encFault := true } } ∧
        (outputs t).encFault = true ∧ (outputs t).txValid = false ∧ (outputs t).encReady = true ∧
        exec (.encLoadFault len) t = .next t

/-- 41_encoder.md R135 to R139: each of the five sending states, the byte on offer in it, what firing it changes, and
the next state. The clauses on `hist` are the model's own (log entry 2). -/
def Obligations.EncSendsItsFiveFields : Prop :=
  (∀ p : Ports, p.txReady = true → selectEnc .encStart p = .encTxStart ∧ selectEnc .encId p = .encTxId ∧
      selectEnc .encLen p = .encTxLen ∧ selectEnc .encData p = .encTxData ∧ selectEnc .encCrc p = .encTxCrc) ∧
    (∀ s : State, s.enc.encState = .encStart → (outputs s).txData = 0xAA ∧
      exec .encTxStart s = .next { s with
        enc := { s.enc with encState := .encId }
        hist := { s.hist with txFired := s.hist.txFired ++ [0xAA] } }) ∧
    (∀ s : State, s.enc.encState = .encId → (outputs s).txData = s.enc.encIdR ∧
      exec .encTxId s = .next { s with
        enc := { s.enc with encState := .encLen, encCrc := crc8Update s.enc.encCrc s.enc.encIdR }
        hist := { s.hist with txFired := s.hist.txFired ++ [s.enc.encIdR] } }) ∧
    (∀ s : State, s.enc.encState = .encLen → (outputs s).txData = s.enc.encLenR ∧
      exec .encTxLen s = .next { s with
        enc := { s.enc with
          encState := if s.enc.encLenR = 0x00 then .encCrc else .encData
          encCrc := crc8Update s.enc.encCrc s.enc.encLenR }
        hist := { s.hist with txFired := s.hist.txFired ++ [s.enc.encLenR] } }) ∧
    (∀ s : State, s.enc.encState = .encData → (outputs s).txData = s.enc.encDataR.get s.enc.encIdx ∧
      exec .encTxData s = .next { s with
        enc := { s.enc with
          encState := if s.enc.encIdx.toNat + 1 = s.enc.encLenR.toNat then .encCrc else .encData
          encIdx := s.enc.encIdx + 1
          encCrc := crc8Update s.enc.encCrc (s.enc.encDataR.get s.enc.encIdx) }
        hist := { s.hist with txFired := s.hist.txFired ++ [s.enc.encDataR.get s.enc.encIdx] } }) ∧
    ∀ s : State, s.enc.encState = .encCrc → (outputs s).txData = s.enc.encCrc ∧
      exec .encTxCrc s = .next { s with
        enc := { s.enc with encState := .encIdle }
        hist := { s.hist with txFired := s.hist.txFired ++ [s.enc.encCrc] } }

/-! ### DEC -/

/-- 42_decoder.md R163, R164; 60_exceptions.md R210: DEC.START begins a fresh attempt outside the reading states and
takes no byte; in them `dec_start` is ignored. The clauses on `hist` are the model's own (log entry 2). -/
def Obligations.DecStartBeginsAFreshAttempt : Prop :=
  (∀ (st : DecState) (crc : Byte) (p : Ports), st.reading = false → p.host.decStart = true →
      selectDec st crc p = .decStart) ∧
    (∀ s : State, s.dec.decState.reading = false →
      ∃ t : State, exec .decStart s = .next t ∧
        t.dec = { decState := .awaitStart, decErrR := none, decIdR := 0x00, decLenR := 0x00,
                  decDataR := ⟨0x00, 0x00, 0x00, 0x00, 0x00, 0x00, 0x00, 0x00⟩, decIdx := 0, decCrc := 0x00,
                  decCrcRx := 0x00 } ∧
        t.crcu = s.crcu ∧ t.enc = s.enc ∧ t.env = s.env ∧ t.hist = { s.hist with rxTaken := [] } ∧
        (outputs t).decDone = false ∧ (outputs t).decOk = false ∧ (outputs t).decErr = 0 ∧
        (outputs t).decBusy = true ∧ (outputs t).rxReady = true) ∧
    (∀ (st : DecState) (crc : Byte) (p : Ports) (v : Bool), st.reading = true →
      selectDec st crc { p with host := { p.host with decStart := v } } = selectDec st crc p) ∧
    ∀ s : State, s.dec.decState.reading = true → exec .decStart s = .next s

/-- 42_decoder.md R165, R166; 60_exceptions.md R204: the first byte of an attempt, `0xAA` or not. Either way the one
byte is consumed and not stored; any other byte raises BadStartByte. The clauses on `hist` are the model's own (log
entry 2). -/
def Obligations.DecStartByteDecides : Prop :=
  (∀ (crc : Byte) (p : Ports), p.rxValid = true →
      selectDec .awaitStart crc p = if p.rxData = 0xAA then .decSofOk else .decSofBad p.rxData) ∧
    (∀ s : State, s.dec.decState = .awaitStart →
      exec .decSofOk s = .next { s with
        dec := { s.dec with decState := .readId }
        hist := { s.hist with rxTaken := s.hist.rxTaken ++ [0xAA], rxAll := s.hist.rxAll ++ [0xAA] } }) ∧
    ∀ (b : Byte) (s : State), s.dec.decState = .awaitStart → b ≠ 0xAA →
      ∃ t : State, exec (.decSofBad b) s = .next t ∧
        t = { s with
          dec := { s.dec with decErrR := some .badStartByte, decState := .rejected }
          hist := { s.hist with rxTaken := s.hist.rxTaken ++ [b], rxAll := s.hist.rxAll ++ [b],
                                results := s.hist.results ++ [.err .badStartByte] } } ∧
        (outputs t).decDone = true ∧ (outputs t).decErr = 1 ∧ (outputs t).decOk = false ∧
        (outputs t).decBusy = false ∧ (outputs t).rxReady = false

/-- 42_decoder.md R168, R169, R170: the LEN byte, by its class. The clauses on `hist` are the model's own (log entry
2). -/
def Obligations.DecRdLenByClass : Prop :=
  (∀ (crc : Byte) (p : Ports), p.rxValid = true →
      selectDec .readLen crc p =
        if p.rxData.toNat = 0 then .decRdLenZero
        else if p.rxData.toNat ≤ 8 then .decRdLenNz p.rxData else .decRdLenBad p.rxData) ∧
    (∀ s : State, s.dec.decState = .readLen →
      exec .decRdLenZero s = .next { s with
        dec := { s.dec with decLenR := 0x00, decCrc := crc8Update s.dec.decCrc 0x00, decState := .readChecksum }
        hist := { s.hist with rxTaken := s.hist.rxTaken ++ [0x00], rxAll := s.hist.rxAll ++ [0x00] } }) ∧
    (∀ (b : Byte) (s : State), s.dec.decState = .readLen → 1 ≤ b.toNat → b.toNat ≤ 8 →
      exec (.decRdLenNz b) s = .next { s with
        dec := { s.dec with decLenR := b, decCrc := crc8Update s.dec.decCrc b, decState := .readData }
        hist := { s.hist with rxTaken := s.hist.rxTaken ++ [b], rxAll := s.hist.rxAll ++ [b] } }) ∧
    ∀ (b : Byte) (s : State), s.dec.decState = .readLen → 8 < b.toNat →
      ∃ t : State, exec (.decRdLenBad b) s = .next t ∧
        t = { s with
          dec := { s.dec with decLenR := b, decCrc := crc8Update s.dec.decCrc b,
                              decErrR := some .lengthOutOfRange, decState := .rejected }
          hist := { s.hist with rxTaken := s.hist.rxTaken ++ [b], rxAll := s.hist.rxAll ++ [b],
                                results := s.hist.results ++ [.err .lengthOutOfRange] } } ∧
        (outputs t).decDone = true ∧ (outputs t).decErr = 2

/-- 42_decoder.md R167, R171: DEC.RD_ID accepts every ID; DEC.RD_DATA stores the byte at the old index, folds it and
advances. The clauses on `hist` are the model's own (log entry 2). -/
def Obligations.DecIdAndDataBytesAreStored : Prop :=
  (∀ (crc : Byte) (p : Ports), p.rxValid = true →
      selectDec .readId crc p = .decRdId p.rxData ∧ selectDec .readData crc p = .decRdData p.rxData) ∧
    (∀ (b : Byte) (s : State), s.dec.decState = .readId →
      exec (.decRdId b) s = .next { s with
        dec := { s.dec with decIdR := b, decCrc := crc8Update s.dec.decCrc b, decState := .readLen }
        hist := { s.hist with rxTaken := s.hist.rxTaken ++ [b], rxAll := s.hist.rxAll ++ [b] } }) ∧
    ∀ (b : Byte) (s : State), s.dec.decState = .readData →
      ∃ t : State, exec (.decRdData b) s = .next t ∧
        t = { s with
          dec := { s.dec with
            decDataR := t.dec.decDataR
            decCrc := crc8Update s.dec.decCrc b
            decIdx := s.dec.decIdx + 1
            decState := if s.dec.decIdx.toNat + 1 = s.dec.decLenR.toNat then .readChecksum else .readData }
          hist := { s.hist with rxTaken := s.hist.rxTaken ++ [b], rxAll := s.hist.rxAll ++ [b] } } ∧
        (s.dec.decIdx.toNat < 8 → t.dec.decDataR.get s.dec.decIdx = b) ∧
        ∀ j : Index, j ≠ s.dec.decIdx → t.dec.decDataR.get j = s.dec.decDataR.get j

/-- 42_decoder.md R172, R173, R177, R178: the CRC byte decides; an accepted frame is the result, a rejected one leaves
the failure kind alone. The clauses on `hist` are the model's own (log entry 2). -/
def Obligations.DecCrcByteDecides : Prop :=
  (∀ (crc : Byte) (p : Ports), p.rxValid = true →
      selectDec .readChecksum crc p = if p.rxData = crc then .decCrcOk p.rxData else .decCrcBad p.rxData) ∧
    (∀ (b : Byte) (s : State), s.dec.decState = .readChecksum → b = s.dec.decCrc →
      ∃ t : State, exec (.decCrcOk b) s = .next t ∧
        t = { s with
          dec := { s.dec with decCrcRx := b, decState := .accepted }
          hist := { s.hist with rxTaken := s.hist.rxTaken ++ [b], rxAll := s.hist.rxAll ++ [b],
                                results := s.hist.results ++ [.ok (decFrame s.dec)] } } ∧
        (outputs t).decDone = true ∧ (outputs t).decOk = true ∧ (outputs t).decErr = (outputs s).decErr ∧
        (outputs t).decBusy = false ∧ (outputs t).rxReady = false ∧
        (outputs t).frame = some { decId := s.dec.decIdR, decLen := s.dec.decLenR, decData := s.dec.decDataR,
                                   decChecksum := b } ∧
        attemptResult t.dec =
          some (.ok (Frame.ofPayload s.dec.decIdR s.dec.decDataR s.dec.decLenR.toNat))) ∧
    ∀ (b : Byte) (s : State), s.dec.decState = .readChecksum → b ≠ s.dec.decCrc →
      ∃ t : State, exec (.decCrcBad b) s = .next t ∧
        t = { s with
          dec := { s.dec with decCrcRx := b, decErrR := some .checksumMismatch, decState := .rejected }
          hist := { s.hist with rxTaken := s.hist.rxTaken ++ [b], rxAll := s.hist.rxAll ++ [b],
                                results := s.hist.results ++ [.err .checksumMismatch] } } ∧
        (outputs t).decDone = true ∧ (outputs t).decOk = false ∧ (outputs t).decErr = 3 ∧
        (outputs t).frame = none ∧ attemptResult t.dec = some (.err .checksumMismatch)

/-! ### Waiting -/

/-- 41_encoder.md R140, R141; 42_decoder.md R174, R175: ENC.WAIT, ENC.IDLE, DEC.WAIT and DEC.HOLD are real steps that change
nothing, selected whatever the ports they ignore carry; while the encoder waits the same byte stays on offer. -/
def Obligations.WaitingOperationsChangeNothing : Prop :=
  (∀ (st : EncState) (p : Ports), st ≠ .encIdle → p.txReady = false → selectEnc st p = .encWait) ∧
    (∀ p : Ports, p.host.encValid = false → selectEnc .encIdle p = .encIdle) ∧
    (∀ (st : DecState) (crc : Byte) (p : Ports), st.reading = true → p.rxValid = false →
      selectDec st crc p = .decWait) ∧
    (∀ (st : DecState) (crc : Byte) (p : Ports), st.reading = false → p.host.decStart = false →
      selectDec st crc p = .decHold) ∧
    (∀ s : State, s.enc.encState ≠ .encIdle →
      ∃ t : State, exec .encWait s = .next t ∧ (outputs t).txValid = true ∧
        (outputs t).txData = (outputs s).txData) ∧
    (∀ s : State, s.dec.decState.reading = true → (outputs s).rxReady = true) ∧
    (∀ s : State, s.dec.decState.reading = false → (outputs s).rxReady = false) ∧
    ∀ s : State, exec .encWait s = .next s ∧ exec .encIdle s = .next s ∧ exec .decWait s = .next s ∧
      exec .decHold s = .next s

/-! ### Frames -/

/-- A frame received in a fresh attempt is accepted with its ID and payload when its checksum matches and rejected
with ChecksumMismatch when it does not; all its bytes are taken and nothing else moves (42_decoder.md R160, R177,
R178, R181). A frame that arrives outside an attempt is not taken: it stays with the transport (20_memory.md R61;
42_decoder.md R175). The frame as one step, and `hist`, are the model's own (log entries 5 and 2). -/
def Obligations.FrameIsDecodedInAnAttemptAndStaysOutsideOne : Prop :=
  (∀ (i : Instr) (f : Frame) (c : Byte) (s : State), i.frameParts = some (f, c) → s.dec = (startAttempt s).dec →
    ∃ t : State, exec i s = .next t ∧ t.crcu = s.crcu ∧ t.enc = s.enc ∧ t.env = s.env ∧
      t.hist.rxTaken = s.hist.rxTaken ++ encode i ∧
      t.dec.decIdR = f.id ∧ t.dec.decLenR = f.len ∧ t.dec.decDataR.upTo f.data.length = f.data ∧
      t.dec.decCrc = f.checksum ∧ t.dec.decCrcRx = c ∧
      (i.wf = true → t.dec.decState = .accepted ∧ attemptResult t.dec = some (.ok f)) ∧
      (i.wf = false → t.dec.decState = .rejected ∧ attemptResult t.dec = some (.err .checksumMismatch))) ∧
    ∀ (i : Instr) (s : State), i.isFrame = true → s.dec.decState.reading = false →
      exec i s = .next { s with env := { s.env with rxQueue := encode i ++ s.env.rxQueue } }

/-! ### Rules of the whole machine -/

/-- 00_scope.md R9: an operation whose row can apply at no edge in this state, whatever the ports, changes nothing. -/
def Obligations.OperationsDoNothingOffTheirCondition : Prop :=
  ∀ (i : Instr) (s : State), i.isFrame = false →
    (∀ p : Ports, i.applies s.enc.encState s.dec.decState s.dec.decCrc p = false) → exec i s = .next s

/-- 10_state.md R20; 40_crc8.md R122: the units share no register, and no operation touches the environment but a frame,
which leaves untaken bytes with the transport. -/
def Obligations.UnitsShareNoRegister : Prop :=
  ∀ (i : Instr) (s t : State), exec i s = .next t →
    (i.unit = .crcu → t.enc = s.enc ∧ t.dec = s.dec) ∧ (i.unit = .enc → t.crcu = s.crcu ∧ t.dec = s.dec) ∧
      (i.unit = .dec → t.crcu = s.crcu ∧ t.enc = s.enc) ∧ (i.isFrame = false → t.env = s.env) ∧
      t.env.stims = s.env.stims ∧ t.env.txLine = s.env.txLine

/-- 20_memory.md R71: operations of different units may be performed in either order. -/
def Obligations.UnitOrderIsIrrelevant : Prop :=
  ∀ (i j : Instr) (s : State), i.unit ≠ j.unit → i.unit ≠ .all → j.unit ≠ .all →
    andThen (exec i s) (exec j) = andThen (exec j s) (exec i)

/-- 60_exceptions.md R209; 70_reset_and_hazards.md R248: only ENC.LOAD_FAULT sets `enc_fault` and only RST clears it. -/
def Obligations.EncFaultIsStickyUntilReset : Prop :=
  ∀ (i : Instr) (s t : State), exec i s = .next t →
    (t.enc.encFault = true ↔
      i ≠ .rst ∧ (s.enc.encFault = true ∨
        ∃ len : Byte, i = .encLoadFault len ∧ s.enc.encState = .encIdle ∧ 8 < len.toNat))

/-- 60_exceptions.md R200 to R204: an operation that brings the decoder to `Rejected` is one of the three failing ones and
records its kind; every other operation leaves `dec_err_r` alone but DEC.START and RST, which clear it. -/
def Obligations.OnlyThreeOperationsRaise : Prop :=
  ∀ (i : Instr) (s t : State), i.isFrame = false → exec i s = .next t →
    (t.dec.decState = .rejected → s.dec.decState ≠ .rejected →
      (∃ b : Byte, i = .decSofBad b ∧ t.dec.decErrR = some .badStartByte) ∨
        (∃ b : Byte, i = .decRdLenBad b ∧ t.dec.decErrR = some .lengthOutOfRange) ∨
        ∃ b : Byte, i = .decCrcBad b ∧ t.dec.decErrR = some .checksumMismatch) ∧
      (t.dec.decErrR ≠ s.dec.decErrR → t.dec.decState = .rejected ∨ i = .decStart ∨ i = .rst)

/-- 60_exceptions.md R210: only DEC.START and RST leave a terminal state, and neither restores anything. -/
def Obligations.OnlyStartOrResetLeavesATerminalState : Prop :=
  ∀ (i : Instr) (s t : State), decDone s.dec.decState = true → exec i s = .next t →
    t.dec = s.dec ∨ (i = .decStart ∧ t.dec = (startAttempt s).dec) ∨ (i = .rst ∧ t.dec = Dec.reset)

/-- 42_decoder.md R176 and 41_encoder.md R142: along an attempt the decoder only moves forward, one byte at a time,
and the encoder's wire position only moves forward until it is idle again. The clauses on `hist` are the model's own
(log entry 2). -/
def Obligations.UnitsMoveForward : Prop :=
  (∀ (b : Byte) (s t : State), DecInv s.dec → s.dec.decState.reading = true →
    exec (selectDecByte s.dec.decState s.dec.decCrc b) s = .next t →
    t.hist.rxTaken = s.hist.rxTaken ++ [b] ∧
      match s.dec.decState, t.dec.decState with
      | .awaitStart, .readId => True
      | .awaitStart, .rejected => True
      | .readId, .readLen => True
      | .readLen, .readChecksum => t.dec.decLenR = 0x00
      | .readLen, .readData => t.dec.decIdx = 0
      | .readLen, .rejected => True
      | .readData, .readData => t.dec.decIdx.toNat = s.dec.decIdx.toNat + 1
      | .readData, .readChecksum => t.dec.decIdx.toNat = s.dec.decIdx.toNat + 1
      | .readChecksum, .accepted => True
      | .readChecksum, .rejected => True
      | _, _ => False) ∧
    ∀ (p : Ports) (s t : State), EncInv s.enc → s.enc.encState ≠ .encIdle → p.txReady = true →
      exec (selectEnc s.enc.encState p) s = .next t →
      t.hist.txFired = s.hist.txFired ++ [txData s.enc] ∧
        (t.enc.encState = .encIdle ∨ encPosition t.enc = encPosition s.enc + 1) ∧
        (t.enc.encState = .encIdle ↔ encPosition s.enc = 3 + s.enc.encLenR.toNat)

/-- 20_memory.md R60; 41_encoder.md R140: a byte offered on `tx` stays on offer unchanged until it fires or the block
is reset. The clauses on `hist` and on `env.txSent` are the model's own (log entries 2 and 10). -/
def Obligations.OfferedByteIsStable : Prop :=
  ∀ (s t : State) (e : Edge) (rest : List Stim), s.env.stims = .edge e :: rest → e.host.rst = false →
    txValid s.enc.encState = true → txFire (edgePorts e s) s = false → step s = .next t →
    t.enc = s.enc ∧ (outputs t).txValid = true ∧ (outputs t).txData = (outputs s).txData ∧
      t.env.txLine = s.env.txLine ∧ t.env.txSent = s.env.txSent ∧ t.hist.txFired = s.hist.txFired

/-- 20_memory.md R62, R74: outside `EncIdle` nothing on the frame port matters, and in `EncIdle` the frame is copied whole,
so a change after the load is not seen. -/
def Obligations.FramePortIsReadOnlyAtTheLoad : Prop :=
  ∀ (s : State) (e e' : Edge) (rest : List Stim), s.enc.encState ≠ .encIdle →
    e' = { e with host := { e.host with encValid := e'.host.encValid, encId := e'.host.encId,
                                        encLen := e'.host.encLen, encDataIn := e'.host.encDataIn } } →
    step (withStims (.edge e' :: rest) s) = step (withStims (.edge e :: rest) s)

/-- 20_memory.md R61, R63, R68: at an edge without reset the bytes taken and the bytes still with the transport
together stay the same sequence, at most one byte moves, and it moves exactly at `rx_fire`; likewise `tx` passes
exactly the byte offered, exactly at `tx_fire`. The clauses on `hist` and on `env.txSent` are the model's own (log
entries 2 and 10). -/
def Obligations.BytesMoveOnceInOrder : Prop :=
  ∀ (s t : State) (e : Edge) (rest : List Stim), s.env.stims = .edge e :: rest → e.host.rst = false →
    e.loopback = false → step s = .next t →
    t.hist.rxAll ++ t.env.rxQueue = s.hist.rxAll ++ s.env.rxQueue ∧
      t.hist.rxAll.length = s.hist.rxAll.length + (if rxFire (edgePorts e s) s then 1 else 0) ∧
      (if txFire (edgePorts e s) s then
        t.env.txLine = s.env.txLine ++ [txData s.enc] ∧ t.env.txSent = s.env.txSent ++ [txData s.enc] ∧
          t.hist.txFired = s.hist.txFired ++ [txData s.enc]
      else t.env.txLine = s.env.txLine ∧ t.env.txSent = s.env.txSent ∧ t.hist.txFired = s.hist.txFired)

/-- THE MODEL'S OWN: every operation and every step gives a next state. 60_exceptions.md R204 and R209
describe the failures as register writes, and 40_crc8.md R121 says no operation has an undefined result; that nothing at all stops the machine, EncLengthFault included, is log entry
7; that an access at an index above 7 goes on is log entry 4; that an operation off its condition changes nothing is log
entry 11. -/
def Obligations.EveryStepGoesOn : Prop :=
  (∀ (i : Instr) (s : State), ∃ t : State, exec i s = .next t) ∧ ∀ s : State, ∃ t : State, step s = .next t

/-- 10_state.md R20: the record of what has moved, which is the model's own, never influences a register or the
environment. (Log entry 2.) -/
def Obligations.TheRecordIsNeverRead : Prop :=
  ∀ (s t : State) (h : History), step s = .next t →
    ∃ t' : State, step { s with hist := h } = .next t' ∧ t'.crcu = t.crcu ∧ t'.enc = t.enc ∧ t'.dec = t.dec ∧
      t'.env = t.env

/-- A run in which `enc_fault` is never set loses no frame: at whatever edge, of a plan or of a script, a frame that fires on
the frame port has a legal length and is loaded whole (60_exceptions.md R209; 41_encoder.md R133, R134). The premise is
that the run is not faulted (log entry 7); the clause on `hist` is the model's own (log entry 2). -/
def Obligations.AnUnfaultedRunLosesNoFrame : Prop :=
  ∀ (v v' : Env) (k : Nat) (s : State) (e : Edge),
    Host.Core.run Sys2Proof.core k { State.reset with env := v } = .next s →
    ¬ RunFaulted (k + 1) { State.reset with env := v } →
    step s = edgeStep e { s with env := v' } → encFire (edgePorts e { s with env := v' }) s = true →
    e.host.encLen.toNat ≤ 8 ∧
      ∃ t : State, step s = .next t ∧
        t.enc = { encState := .encStart, encIdR := e.host.encId, encLenR := e.host.encLen, encDataR := e.host.encDataIn,
                  encIdx := 0, encCrc := 0x00, encFault := false } ∧
        t.hist.loaded =
          s.hist.loaded ++ [Frame.ofPayload e.host.encId e.host.encDataIn e.host.encLen.toNat]

/-! ### The host script -/

/-- 30_encoding.md R93: the port activity of each statement, at whatever pace the transport goes. How a statement waits, and
that `tx.expect` looks at the bytes fired since the last one, is the model's own (log entry 10). -/
def Obligations.ScriptStatementsDriveTheirPorts : Prop :=
  (∀ (data : List Byte) (k : Index), k.toNat < 8 → (Payload.ofList data).get k = data.getD k.toNat 0x00) ∧
    ∀ (s : State) (st : Stmt) (rest : List Stim), s.env.stims = .stmt st :: rest →
      ∃ t : State, step s = .next t ∧
        match st with
        | .reset => t.crcu = Crcu.reset ∧ t.enc = Enc.reset ∧ t.dec = Dec.reset ∧ t.env.stims = rest
        | .crcClr => t.crcu.crcQ = 0x00 ∧ t.env.stims = rest
        | .crcPut b => t.crcu.crcQ = crc8Update s.crcu.crcQ b ∧ t.env.stims = rest
        | .crcGet =>
          t = { s with env := { s.env with stims := rest, answers := s.env.answers ++ [.value s.crcu.crcQ] } }
        | .encSend id len data =>
          t.crcu = s.crcu ∧
            if s.enc.encState = .encIdle then
              t.env.stims = .stmt .encAwait :: rest ∧
                t.enc =
                  if len.toNat ≤ 8 then
                    { encState := .encStart, encIdR := id, encLenR := len, encDataR := Payload.ofList data, encIdx := 0,
                      encCrc := 0x00, encFault := s.enc.encFault }
                  else { s.enc with encFault := true }
            else t.env.stims = s.env.stims ∧ t.enc.encFault = s.enc.encFault ∧ t.enc.encDataR = s.enc.encDataR
        | .encAwait => if s.enc.encState = .encIdle then t = withStims rest s else t.env.stims = s.env.stims
        | .txExpect bs =>
          t = { s with
            env := { s.env with
              stims := rest, txSeen := s.env.txSent.length
              answers := s.env.answers ++ [.sent (s.env.txSent.drop s.env.txSeen == bs)] } }
        | .rxFeed bs => t = { s with env := { s.env with stims := rest, rxQueue := s.env.rxQueue ++ bs } }
        | .decTry =>
          if s.dec.decState.reading then t.env.stims = s.env.stims
          else t.dec = (startAttempt s).dec ∧ t.env.stims = .stmt .decAwait :: rest
        | .decAwait =>
          (∀ r : Result, attemptResult s.dec = some r →
            t = { s with env := { s.env with stims := rest, answers := s.env.answers ++ [.result r] } }) ∧
            (attemptResult s.dec = none → t.env.stims = s.env.stims)
        | .decAll =>
          t = withStims (if bytesRemain s then .stmt .decTry :: .stmt .decAll :: rest else rest) s
        | .sendAndTry id len data =>
          if s.enc.encState = .encIdle ∧ s.dec.decState.reading = false then
            t.env.stims = .stmt .encAwait :: .stmt .decAwait :: rest ∧ t.dec = (startAttempt s).dec ∧
              t.enc =
                if len.toNat ≤ 8 then
                  { encState := .encStart, encIdR := id, encLenR := len, encDataR := Payload.ofList data, encIdx := 0,
                    encCrc := 0x00, encFault := s.enc.encFault }
                else { s.enc with encFault := true }
          else t.env.stims = s.env.stims
        | .loopback => t = { s with env := { s.env with stims := rest, wired := true } }

/-- 30_encoding.md R93 at the level of whole calls: `crc.of` gives `crc8`; `enc.send` puts `encode` of the frame on `tx`, or
only sets `enc_fault`; `dec.try` gives the result of `decode` and takes the bytes it consumes, and blocks for ever where
`decode` waits for more; `dec.all` gives the results of `decode_all`. These four are for a transport that never stalls
(95_test_vectors.md section 6; log entry 10). The last two: where it stalls for ever, the wait lasts for ever
(70_reset_and_hazards.md R241). -/
def Obligations.ScriptCallsGiveTheFunctionsResults : Prop :=
  (∀ (s : State) (bs : List Byte) (rest : List Stim), s.env.stims = script (crcOf bs) ++ rest →
    ∃ t : State, Host.Core.run Sys2Proof.core (bs.length + 2) s = .next t ∧ t.env.stims = rest ∧
      t.crcu.crcQ = crc8 bs ∧ t.env.answers = s.env.answers ++ [.value (crc8 bs)]) ∧
    (∀ (s : State) (f : Frame) (rest : List Stim), s.env.stims = script (withChecksum f) ++ rest →
      ∃ t : State, Host.Core.run Sys2Proof.core (4 + f.data.length) s = .next t ∧ t.env.stims = rest ∧
        t.env.answers = s.env.answers ++ [.value f.checksum]) ∧
    (∀ (s : State) (id len : Byte) (data : List Byte) (rest : List Stim),
      s.env.pace = [] → s.env.paceAfter = .always Pace.ready → s.env.wired = false → s.enc.encState = .encIdle →
      s.env.stims = .stmt (.encSend id len data) :: rest →
      (len.toNat ≤ 8 → ∃ t : State, Host.Core.run Sys2Proof.core (6 + len.toNat) s = .next t ∧ t.env.stims = rest ∧
        t.enc.encState = .encIdle ∧ t.enc.encFault = s.enc.encFault ∧
        t.env.txLine = s.env.txLine ++ (Frame.ofPayload id (Payload.ofList data) len.toNat).encode ∧
        t.env.txSent = s.env.txSent ++ (Frame.ofPayload id (Payload.ofList data) len.toNat).encode) ∧
      (8 < len.toNat → ∃ t : State, Host.Core.run Sys2Proof.core 2 s = .next t ∧ t.env.stims = rest ∧
        t.enc = { s.enc with encFault := true } ∧ t.env.txLine = s.env.txLine ∧ t.env.txSent = s.env.txSent)) ∧
    (∀ (s : State) (rest : List Stim),
      s.env.pace = [] → s.env.paceAfter = .always Pace.ready → s.env.wired = false → s.dec.decState.reading = false →
      s.env.stims = .stmt .decTry :: rest →
      (∀ (r : Result) (n : Nat), decode s.env.rxQueue = .done r n →
        ∃ t : State, Host.Core.run Sys2Proof.core (n + 2) s = .next t ∧ t.env.stims = rest ∧
          t.env.answers = s.env.answers ++ [.result r] ∧ t.env.rxQueue = s.env.rxQueue.drop n) ∧
      ∀ (st : DecState) (i : Nat), decode s.env.rxQueue = .pending st i → ∀ k : Nat,
        ∃ t : State, Host.Core.run Sys2Proof.core (s.env.rxQueue.length + 1 + k) s = .next t ∧ t.dec.decState = st ∧
          t.env.answers = s.env.answers ∧ t.env.rxQueue = [] ∧ t.env.stims = .stmt .decAwait :: rest) ∧
    (∀ (s : State) (rest : List Stim),
      s.env.pace = [] → s.env.paceAfter = .always Pace.ready → s.env.wired = false → s.dec.decState.reading = false →
      s.env.stims = .stmt .decAll :: rest →
      ∃ (k : Nat) (t : State), Host.Core.run Sys2Proof.core k s = .next t ∧
        t.env.answers = s.env.answers ++ (decodeAll s.env.rxQueue).map .result ∧ t.env.rxQueue = [] ∧
        (t.env.stims = rest ∨
          t.dec.decState.reading = true ∧ t.env.stims = .stmt .decAwait :: .stmt .decAll :: rest)) ∧
    (∀ (s : State) (p : Pace) (rest : List Stim), s.env.pace = [] → s.env.paceAfter = .always p → p.txReady = false →
      s.env.wired = false → s.enc.encState ≠ .encIdle → s.env.stims = .stmt .encAwait :: rest → ∀ k : Nat,
      ∃ t : State, Host.Core.run Sys2Proof.core k s = .next t ∧ t.enc = s.enc ∧ t.env.txSent = s.env.txSent ∧
        t.env.stims = s.env.stims) ∧
    ∀ (s : State) (p : Pace) (rest : List Stim), s.env.pace = [] → s.env.paceAfter = .always p → p.rxOffer = false →
      s.env.wired = false → s.dec.decState.reading = true → s.env.stims = .stmt .decAwait :: rest → ∀ k : Nat,
      ∃ t : State, Host.Core.run Sys2Proof.core k s = .next t ∧ t.dec = s.dec ∧ t.env.answers = s.env.answers ∧
        t.env.stims = s.env.stims

/-! ### Invariants and refinements -/

/-- The invariant of the whole machine holds right after reset, whatever the environment plans. The bytes and results
are read from the record `hist` (log entry 2). -/
def Obligations.ResetSatisfiesTheInvariant : Prop :=
  ∀ e : Env, Inv { State.reset with env := e }

/-- Every step keeps the encoder's part of 10_state.md R38. -/
def Obligations.StepKeepsTheEncoderInvariant : Prop :=
  ∀ s t : State, EncInv s.enc → step s = .next t → EncInv t.enc

/-- Every step keeps the decoder's part of 10_state.md R38. -/
def Obligations.StepKeepsTheDecoderInvariant : Prop :=
  ∀ s t : State, DecInv s.dec → step s = .next t → DecInv t.dec

/-- 40_crc8.md R119: every step keeps `crc_q` the checksum of the bytes folded since the last clear. The bytes and
results are read from the record `hist` (log entry 2). -/
def Obligations.StepKeepsTheChecksumRefinement : Prop :=
  ∀ s t : State, CrcTrace s → step s = .next t → CrcTrace t

/-- 41_encoder.md R143: every step keeps the `tx` stream the concatenation of the encodings of the loaded frames, the
last one up to the position reached. The bytes and results are read from the record `hist` (log entry 2). -/
def Obligations.StepKeepsTheEncoderRefinement : Prop :=
  ∀ s t : State, EncInv s.enc → EncTrace s → step s = .next t → EncTrace t

/-- 42_decoder.md R181: every step keeps the bytes taken since DEC.START in step with the decoder's registers. The
bytes and results are read from the record `hist` (log entry 2). -/
def Obligations.StepKeepsTheDecoderRefinement : Prop :=
  ∀ s t : State, DecInv s.dec → DecTrace s → step s = .next t → DecTrace t

/-- 42_decoder.md R184: every step keeps the recorded results `decode_all` of the bytes taken. The bytes and results
are read from the record `hist` (log entry 2). -/
def Obligations.StepKeepsTheResults : Prop :=
  ∀ s t : State, DecInv s.dec → DecTrace s → ResultsTrace s → step s = .next t → ResultsTrace t

/-- What the invariant says: 10_state.md R38 as it stands, `decode` of the bytes taken says where the decoder is
(42_decoder.md R181), and how many bytes an attempt has consumed when it ends (42_decoder.md R161, R179;
60_exceptions.md R208). The bytes and results are read from the record `hist` (log entry 2). -/
def Obligations.InvariantSaysWhereAnAttemptStands : Prop :=
  ∀ s : State, Inv s → Rule38 s ∧ DecRefines s ∧
    (s.dec.decState = .accepted → s.hist.rxTaken.length = 4 + s.dec.decLenR.toNat) ∧
    (s.dec.decState = .rejected →
      (s.dec.decErrR = some .badStartByte → s.hist.rxTaken.length = 1) ∧
        (s.dec.decErrR = some .lengthOutOfRange → s.hist.rxTaken.length = 3) ∧
        (s.dec.decErrR = some .checksumMismatch →
          ∃ len : Byte, s.hist.rxTaken[2]? = some len ∧ s.hist.rxTaken.length = 4 + len.toNat)) ∧
    s.hist.rxTaken.length ≤ 12 ∧ decodeAll s.hist.rxAll = s.hist.results

/-- 10_state.md R38: the clauses I1 to I8 hold after every number of steps from reset, for every environment. -/
def Obligations.EveryRunKeepsRule38 : Prop :=
  ∀ (e : Env) (k : Nat) (s : State),
    Host.Core.run Sys2Proof.core k { State.reset with env := e } = .next s → Rule38 s

/-- The three refinement rules of 00_scope.md R11 over every run from reset, for every environment: `crc8` (40_crc8.md
R119), `encode` (41_encoder.md R143), `decode` (42_decoder.md R181) and `decode_all` (R184). The bytes and results are
read from the record `hist` (log entry 2). -/
def Obligations.EveryRunRefinesTheFunctions : Prop :=
  ∀ (e : Env) (k : Nat) (s : State),
    Host.Core.run Sys2Proof.core k { State.reset with env := e } = .next s →
    s.crcu.crcQ = crc8 s.hist.crcFed ∧
      (∃ n : Nat, s.hist.txFired = (s.hist.loaded.flatMap Frame.encode).take n ∧
        (s.enc.encState = .encIdle → s.hist.txFired = s.hist.loaded.flatMap Frame.encode)) ∧
      DecRefines s ∧ decodeAll s.hist.rxAll = s.hist.results

/-- 60_exceptions.md R216; 42_decoder.md R162 (T1) at the cycle level: with `tx` wired to `rx`, from every state in which both units
are free, a legal frame offered and an attempt begun at one edge end, `4 + len` edges later, with that frame accepted,
whatever the frame and whatever either unit held before. The environment's wiring is 30_encoding.md R93's `loopback`
(log entry 10). -/
def Obligations.LoopbackDeliversTheFrame : Prop :=
  ∀ (s : State) (id len : Byte) (d : Payload) (rest : List Stim), s.enc.encState = .encIdle →
    s.dec.decState.reading = false → len.toNat ≤ 8 → s.env.stims = loopbackStims id len d ++ rest →
    ∃ t : State, Host.Core.run Sys2Proof.core (5 + len.toNat) s = .next t ∧ t.env.stims = rest ∧
      t.enc.encState = .encIdle ∧ t.dec.decState = .accepted ∧
      attemptResult t.dec = some (.ok (Frame.ofPayload id d len.toNat)) ∧ t.crcu = s.crcu ∧
      t.env.rxQueue = s.env.rxQueue ∧ t.env.txLine = s.env.txLine ++ (Frame.ofPayload id d len.toNat).encode ∧
      t.enc.encFault = s.enc.encFault
end

