-- ==== Sys2Proof/Laws/Crc.lean ====
section
/-! SUPPORT. The checksum of a sequence, one byte at a time. -/

namespace Sys2Proof.Machine

@[simp] theorem crc8_nil : crc8 [] = 0x00 := rfl

theorem crc8_snoc (bs : List Byte) (b : Byte) : crc8 (bs ++ [b]) = crc8Update (crc8 bs) b := by
  simp [crc8, List.foldl_append]

theorem crc8_singleton (b : Byte) : crc8 [b] = crc8Update 0x00 b := rfl

theorem crc8_pair (a b : Byte) : crc8 [a, b] = crc8Update (crc8 [a]) b := rfl

theorem xor_xor_xor_self (u v p : Byte) : (u ^^^ p) ^^^ (v ^^^ p) = u ^^^ v := by
  rw [BitVec.xor_assoc, BitVec.xor_comm v, ← BitVec.xor_assoc p p, BitVec.xor_self, BitVec.zero_xor]

theorem xor_right_comm (u v p : Byte) : (u ^^^ p) ^^^ v = (u ^^^ v) ^^^ p := by
  rw [BitVec.xor_assoc, BitVec.xor_comm p v, ← BitVec.xor_assoc]

/-- The shift step is linear over exclusive-or. -/
theorem crc8Bit_xor (x y : Byte) : crc8Bit (x ^^^ y) = crc8Bit x ^^^ crc8Bit y := by
  unfold crc8Bit
  rw [BitVec.getLsbD_xor, BitVec.shiftLeft_xor_distrib]
  cases x.getLsbD 7 <;> cases y.getLsbD 7
  · rfl
  · exact BitVec.xor_assoc ..
  · exact (xor_right_comm _ _ _).symm
  · exact (xor_xor_xor_self _ _ _).symm

end Sys2Proof.Machine
end

