-- ==== Sys2Proof/Laws/State.lean ====
section
/-! SUPPORT. What each shared update changes and what it leaves: one lemma per field, all by `rfl`. -/

namespace Sys2Proof.Machine

variable (s : State) (b : Byte) (f : Frame) (r : Result) (e : DecodeError) (q : List Byte) (st : List Stim)

/-! #### The record -/

@[simp] theorem noteTaken_crcu : (noteTaken b s).crcu = s.crcu := rfl
@[simp] theorem noteTaken_enc : (noteTaken b s).enc = s.enc := rfl
@[simp] theorem noteTaken_dec : (noteTaken b s).dec = s.dec := rfl
@[simp] theorem noteTaken_env : (noteTaken b s).env = s.env := rfl
@[simp] theorem noteTaken_hist : (noteTaken b s).hist =
    { s.hist with rxTaken := s.hist.rxTaken ++ [b], rxAll := s.hist.rxAll ++ [b] } := rfl

@[simp] theorem noteFired_crcu : (noteFired b s).crcu = s.crcu := rfl
@[simp] theorem noteFired_enc : (noteFired b s).enc = s.enc := rfl
@[simp] theorem noteFired_dec : (noteFired b s).dec = s.dec := rfl
@[simp] theorem noteFired_env : (noteFired b s).env = s.env := rfl
@[simp] theorem noteFired_hist : (noteFired b s).hist = { s.hist with txFired := s.hist.txFired ++ [b] } := rfl

@[simp] theorem noteLoaded_crcu : (noteLoaded f s).crcu = s.crcu := rfl
@[simp] theorem noteLoaded_enc : (noteLoaded f s).enc = s.enc := rfl
@[simp] theorem noteLoaded_dec : (noteLoaded f s).dec = s.dec := rfl
@[simp] theorem noteLoaded_env : (noteLoaded f s).env = s.env := rfl
@[simp] theorem noteLoaded_hist : (noteLoaded f s).hist = { s.hist with loaded := s.hist.loaded ++ [f] } := rfl

@[simp] theorem noteResult_crcu : (noteResult r s).crcu = s.crcu := rfl
@[simp] theorem noteResult_enc : (noteResult r s).enc = s.enc := rfl
@[simp] theorem noteResult_dec : (noteResult r s).dec = s.dec := rfl
@[simp] theorem noteResult_env : (noteResult r s).env = s.env := rfl
@[simp] theorem noteResult_hist : (noteResult r s).hist = { s.hist with results := s.hist.results ++ [r] } := rfl

/-! #### The registers -/

@[simp] theorem foldEnc_crcu : (foldEnc b s).crcu = s.crcu := rfl
@[simp] theorem foldEnc_enc : (foldEnc b s).enc = { s.enc with encCrc := crc8Update s.enc.encCrc b } := rfl
@[simp] theorem foldEnc_dec : (foldEnc b s).dec = s.dec := rfl
@[simp] theorem foldEnc_env : (foldEnc b s).env = s.env := rfl
@[simp] theorem foldEnc_hist : (foldEnc b s).hist = s.hist := rfl

@[simp] theorem foldDec_crcu : (foldDec b s).crcu = s.crcu := rfl
@[simp] theorem foldDec_enc : (foldDec b s).enc = s.enc := rfl
@[simp] theorem foldDec_dec : (foldDec b s).dec = { s.dec with decCrc := crc8Update s.dec.decCrc b } := rfl
@[simp] theorem foldDec_env : (foldDec b s).env = s.env := rfl
@[simp] theorem foldDec_hist : (foldDec b s).hist = s.hist := rfl

@[simp] theorem gotoEnc_crcu (x : EncState) : (gotoEnc x s).crcu = s.crcu := rfl
@[simp] theorem gotoEnc_enc (x : EncState) : (gotoEnc x s).enc = { s.enc with encState := x } := rfl
@[simp] theorem gotoEnc_dec (x : EncState) : (gotoEnc x s).dec = s.dec := rfl
@[simp] theorem gotoEnc_env (x : EncState) : (gotoEnc x s).env = s.env := rfl
@[simp] theorem gotoEnc_hist (x : EncState) : (gotoEnc x s).hist = s.hist := rfl

@[simp] theorem gotoDec_crcu (x : DecState) : (gotoDec x s).crcu = s.crcu := rfl
@[simp] theorem gotoDec_enc (x : DecState) : (gotoDec x s).enc = s.enc := rfl
@[simp] theorem gotoDec_dec (x : DecState) : (gotoDec x s).dec = { s.dec with decState := x } := rfl
@[simp] theorem gotoDec_env (x : DecState) : (gotoDec x s).env = s.env := rfl
@[simp] theorem gotoDec_hist (x : DecState) : (gotoDec x s).hist = s.hist := rfl

@[simp] theorem raiseDecodeError_crcu : (raiseDecodeError e s).crcu = s.crcu := rfl
@[simp] theorem raiseDecodeError_enc : (raiseDecodeError e s).enc = s.enc := rfl
@[simp] theorem raiseDecodeError_dec :
    (raiseDecodeError e s).dec = { s.dec with decErrR := some e, decState := .rejected } := rfl
@[simp] theorem raiseDecodeError_env : (raiseDecodeError e s).env = s.env := rfl
@[simp] theorem raiseDecodeError_hist :
    (raiseDecodeError e s).hist = { s.hist with results := s.hist.results ++ [.err e] } := rfl

@[simp] theorem raiseEncLengthFault_crcu : (raiseEncLengthFault s).crcu = s.crcu := rfl
@[simp] theorem raiseEncLengthFault_enc : (raiseEncLengthFault s).enc = { s.enc with encFault := true } := rfl
@[simp] theorem raiseEncLengthFault_dec : (raiseEncLengthFault s).dec = s.dec := rfl
@[simp] theorem raiseEncLengthFault_env : (raiseEncLengthFault s).env = s.env := rfl
@[simp] theorem raiseEncLengthFault_hist : (raiseEncLengthFault s).hist = s.hist := rfl

@[simp] theorem startAttempt_crcu : (startAttempt s).crcu = s.crcu := rfl
@[simp] theorem startAttempt_enc : (startAttempt s).enc = s.enc := rfl
@[simp] theorem startAttempt_dec : (startAttempt s).dec =
    { decState := .awaitStart, decErrR := none, decIdR := 0x00, decLenR := 0x00, decDataR := zeroPayload, decIdx := 0,
      decCrc := 0x00, decCrcRx := 0x00 } := rfl
@[simp] theorem startAttempt_env : (startAttempt s).env = s.env := rfl
@[simp] theorem startAttempt_hist : (startAttempt s).hist = { s.hist with rxTaken := [] } := rfl

/-! #### The environment -/

@[simp] theorem withStims_crcu : (withStims st s).crcu = s.crcu := rfl
@[simp] theorem withStims_enc : (withStims st s).enc = s.enc := rfl
@[simp] theorem withStims_dec : (withStims st s).dec = s.dec := rfl
@[simp] theorem withStims_env : (withStims st s).env = { s.env with stims := st } := rfl
@[simp] theorem withStims_hist : (withStims st s).hist = s.hist := rfl

@[simp] theorem withRxQueue_crcu : (withRxQueue q s).crcu = s.crcu := rfl
@[simp] theorem withRxQueue_enc : (withRxQueue q s).enc = s.enc := rfl
@[simp] theorem withRxQueue_dec : (withRxQueue q s).dec = s.dec := rfl
@[simp] theorem withRxQueue_env : (withRxQueue q s).env = { s.env with rxQueue := q } := rfl
@[simp] theorem withRxQueue_hist : (withRxQueue q s).hist = s.hist := rfl

@[simp] theorem transport_crcu (x : Edge) : (transport x s).crcu = s.crcu := rfl
@[simp] theorem transport_enc (x : Edge) : (transport x s).enc = s.enc := rfl
@[simp] theorem transport_dec (x : Edge) : (transport x s).dec = s.dec := rfl
@[simp] theorem transport_hist (x : Edge) : (transport x s).hist = s.hist := rfl
@[simp] theorem transport_stims (x : Edge) : (transport x s).env.stims = s.env.stims := rfl
@[simp] theorem transport_rxQueue (x : Edge) : (transport x s).env.rxQueue =
    if transportGives x s then s.env.rxQueue.tail else s.env.rxQueue := rfl
@[simp] theorem transport_txLine (x : Edge) : (transport x s).env.txLine =
    if transportTakes x s then s.env.txLine ++ [txData s.enc] else s.env.txLine := rfl

@[simp] theorem transport_after (x : Edge) : (transport x s).env.after = s.env.after := rfl
@[simp] theorem transport_pace (x : Edge) : (transport x s).env.pace = s.env.pace := rfl
@[simp] theorem transport_wired (x : Edge) : (transport x s).env.wired = s.env.wired := rfl
@[simp] theorem transport_paceAfter (x : Edge) : (transport x s).env.paceAfter = s.env.paceAfter := rfl
@[simp] theorem transport_txSent (x : Edge) : (transport x s).env.txSent =
    if txFire (edgePorts x s) s then s.env.txSent ++ [txData s.enc] else s.env.txSent := rfl
@[simp] theorem transport_txSeen (x : Edge) : (transport x s).env.txSeen = s.env.txSeen := rfl
@[simp] theorem transport_answers (x : Edge) : (transport x s).env.answers = s.env.answers := rfl

@[simp] theorem edgePorts_host (x : Edge) : (edgePorts x s).host = x.host := by
  unfold edgePorts; split
  · rfl
  · split <;> rfl

@[simp] theorem edgePorts_withStims (x : Edge) : edgePorts x (withStims st s) = edgePorts x s := rfl

end Sys2Proof.Machine
end

