-- ==== Sys2Proof/Laws/Exec.lean ====
section
/-! SUPPORT. `exec` always answers a next state, and which; what the byte-taking operations do together. -/

namespace Sys2Proof.Machine

/-- The state an instruction leads to. -/
def effect (i : Instr) (s : State) : State :=
  match i with
  | .rst => effRst s
  | .crcClr => effCrcClr s
  | .crcUpd din => effCrcUpd din s
  | .crcHold => s
  | .encLoad id len d => effEncLoad id len d s
  | .encLoadFault len => effEncLoadFault len s
  | .encTxStart => effEncTxStart s
  | .encTxId => effEncTxId s
  | .encTxLen => effEncTxLen s
  | .encTxData => effEncTxData s
  | .encTxCrc => effEncTxCrc s
  | .encWait => s
  | .encIdle => s
  | .decStart => effDecStart s
  | .decSofOk => effDecSofOk s
  | .decSofBad b => effDecSofBad b s
  | .decRdId b => effDecRdId b s
  | .decRdLenZero => effDecRdLenZero s
  | .decRdLenNz b => effDecRdLenNz b s
  | .decRdLenBad b => effDecRdLenBad b s
  | .decRdData b => effDecRdData b s
  | .decCrcOk b => effDecCrcOk b s
  | .decCrcBad b => effDecCrcBad b s
  | .decWait => s
  | .decHold => s
  | .frameL0 i0 c => receive (encode (.frameL0 i0 c)) s
  | .frameL1 i0 d0 c => receive (encode (.frameL1 i0 d0 c)) s
  | .frameL2 i0 d0 d1 c => receive (encode (.frameL2 i0 d0 d1 c)) s
  | .frameL3 i0 d0 d1 d2 c => receive (encode (.frameL3 i0 d0 d1 d2 c)) s
  | .frameL4 i0 d0 d1 d2 d3 c => receive (encode (.frameL4 i0 d0 d1 d2 d3 c)) s
  | .frameL5 i0 d0 d1 d2 d3 d4 c => receive (encode (.frameL5 i0 d0 d1 d2 d3 d4 c)) s
  | .frameL6 i0 d0 d1 d2 d3 d4 d5 c => receive (encode (.frameL6 i0 d0 d1 d2 d3 d4 d5 c)) s
  | .frameL7 i0 d0 d1 d2 d3 d4 d5 d6 c => receive (encode (.frameL7 i0 d0 d1 d2 d3 d4 d5 d6 c)) s
  | .frameL8 i0 d0 d1 d2 d3 d4 d5 d6 d7 c => receive (encode (.frameL8 i0 d0 d1 d2 d3 d4 d5 d6 d7 c)) s

theorem exec_eq_next (i : Instr) (s : State) : exec i s = .next (effect i s) := by cases i <;> rfl

theorem eq_effect_of_exec {i : Instr} {s t : State} (h : exec i s = .next t) : t = effect i s := by
  rw [exec_eq_next] at h; injection h with h; exact h.symm

/-- Every frame is executed by receiving its bytes. -/
theorem effect_of_isFrame {i : Instr} (h : i.isFrame = true) (s : State) : effect i s = receive (encode i) s := by
  cases i <;> first | rfl | (exact absurd h (by simp [Instr.isFrame, Instr.frameParts]))

@[simp] theorem andThen_next (s : State) (f : State → Host.Outcome State Fault Refusal) :
    andThen (.next s) f = f s := rfl

/-- What `CRCU` does at an edge touches nothing outside it and the record. -/
theorem effect_selectCrcu_frame (h : HostPorts) (s : State) :
    (effect (selectCrcu h) s).enc = s.enc ∧ (effect (selectCrcu h) s).dec = s.dec ∧
      (effect (selectCrcu h) s).env = s.env ∧
      (effect (selectCrcu h) s).hist = { s.hist with crcFed := (effect (selectCrcu h) s).hist.crcFed } := by
  unfold selectCrcu
  cases h.crcClr <;> cases h.crcEn <;> exact ⟨rfl, rfl, rfl, rfl⟩

/-- What `ENC` does at an edge touches nothing outside it and the record. -/
theorem effect_selectEnc_frame (p : Ports) (s : State) :
    (effect (selectEnc s.enc.encState p) s).crcu = s.crcu ∧ (effect (selectEnc s.enc.encState p) s).dec = s.dec ∧
      (effect (selectEnc s.enc.encState p) s).env = s.env ∧
      (effect (selectEnc s.enc.encState p) s).hist = { s.hist with
        loaded := (effect (selectEnc s.enc.encState p) s).hist.loaded
        txFired := (effect (selectEnc s.enc.encState p) s).hist.txFired } := by
  cases s.enc.encState <;> simp only [selectEnc] <;> repeat' split
  all_goals
    simp only [effect, effEncLoad, effEncLoadFault, effEncTxStart, effEncTxId, effEncTxLen, effEncTxData, effEncTxCrc]
  all_goals first | exact ⟨rfl, rfl, rfl, rfl⟩ | exact ⟨trivial, trivial, trivial, trivial⟩ | (split <;> exact ⟨rfl, rfl, rfl, rfl⟩)

/-- What `ENC` does at an edge, case by case. -/
theorem effect_selectEnc_cases (p : Ports) (s : State) :
    effect (selectEnc s.enc.encState p) s = s ∨
    (s.enc.encState = .encIdle ∧ p.host.encLen.toNat ≤ 8 ∧
      effect (selectEnc s.enc.encState p) s =
        effEncLoad p.host.encId p.host.encLen p.host.encDataIn s) ∨
    (s.enc.encState = .encIdle ∧ effect (selectEnc s.enc.encState p) s = raiseEncLengthFault s) ∨
    (s.enc.encState = .encStart ∧ effect (selectEnc s.enc.encState p) s = effEncTxStart s) ∨
    (s.enc.encState = .encId ∧ effect (selectEnc s.enc.encState p) s = effEncTxId s) ∨
    (s.enc.encState = .encLen ∧ effect (selectEnc s.enc.encState p) s = effEncTxLen s) ∨
    (s.enc.encState = .encData ∧ effect (selectEnc s.enc.encState p) s = effEncTxData s) ∨
    (s.enc.encState = .encCrc ∧ effect (selectEnc s.enc.encState p) s = effEncTxCrc s) := by
  have hidle (h : s.enc.encState = .encIdle) (h8 : ¬ p.host.encLen.toNat ≤ Config.maxLen) :
      effEncLoadFault p.host.encLen s = raiseEncLengthFault s := if_pos ⟨h, Nat.lt_of_not_le h8⟩
  cases h : s.enc.encState
  case encIdle =>
    simp only [selectEnc, reduceCtorEq, false_and, or_false, true_and]
    split
    · split
      · next h8 => exact .inr (.inl ⟨h8, rfl⟩)
      · next h8 => exact .inr (.inr (hidle h h8))
    · exact .inl rfl
  all_goals
    simp only [selectEnc, reduceCtorEq, false_and, or_false, false_or, true_and]
    split
    · exact .inr rfl
    · exact .inl rfl

/-- `takeByte` is the selected byte-taking operation. -/
theorem exec_selectDecByte (b : Byte) (s : State) :
    exec (selectDecByte s.dec.decState s.dec.decCrc b) s = .next (takeByte b s) := by
  cases h : s.dec.decState <;> simp only [selectDecByte, takeByte, h] <;> (try split) <;> (try split) <;> rfl

/-- What taking one byte does, case by case: in the state, with the byte, and with the result. -/
theorem takeByte_cases (b : Byte) (s : State) :
    (s.dec.decState = .awaitStart ∧ b = Config.start ∧ takeByte b s = noteTaken b (gotoDec .readId s)) ∨
    (s.dec.decState = .awaitStart ∧ b ≠ Config.start ∧
      takeByte b s = raiseDecodeError .badStartByte (noteTaken b s)) ∨
    (s.dec.decState = .readId ∧
      takeByte b s = noteTaken b { s with dec := { s.dec with
        decState := .readLen, decIdR := b, decCrc := crc8Update s.dec.decCrc b } }) ∨
    (s.dec.decState = .readLen ∧ b.toNat ≤ 8 ∧
      takeByte b s = noteTaken b { s with dec := { s.dec with
        decState := if b = 0x00 then .readChecksum else .readData, decLenR := b
        decCrc := crc8Update s.dec.decCrc b } }) ∨
    (s.dec.decState = .readLen ∧ 8 < b.toNat ∧
      takeByte b s = raiseDecodeError .lengthOutOfRange (noteTaken b { s with dec := { s.dec with
        decLenR := b, decCrc := crc8Update s.dec.decCrc b } })) ∨
    (s.dec.decState = .readData ∧
      takeByte b s = noteTaken b { s with dec := { s.dec with
        decDataR := s.dec.decDataR.set s.dec.decIdx b, decCrc := crc8Update s.dec.decCrc b
        decIdx := s.dec.decIdx + 1
        decState := if s.dec.decIdx.toNat + 1 = s.dec.decLenR.toNat then .readChecksum else .readData } }) ∨
    (s.dec.decState = .readChecksum ∧ b = s.dec.decCrc ∧
      takeByte b s = noteResult (.ok (decFrame s.dec))
        (noteTaken b { s with dec := { s.dec with decCrcRx := b, decState := .accepted } })) ∨
    (s.dec.decState = .readChecksum ∧ b ≠ s.dec.decCrc ∧
      takeByte b s = raiseDecodeError .checksumMismatch
        (noteTaken b { s with dec := { s.dec with decCrcRx := b } })) ∨
    (s.dec.decState.reading = false ∧ takeByte b s = s) := by
  have hz : b ≠ 0x00 → 1 ≤ b.toNat := fun h0 =>
    Nat.pos_of_ne_zero fun hz => h0 (BitVec.eq_of_toNat_eq (by rw [hz]; rfl))
  cases h : s.dec.decState <;>
    simp only [takeByte, h, effDecSofOk, effDecSofBad, effDecRdId, effDecRdLenZero, effDecRdLenNz, effDecRdLenBad,
      effDecRdData, effDecCrcOk, effDecCrcBad, DecState.reading, reduceCtorEq, false_and, true_and, false_or, or_false,
      if_true]
  case awaitStart =>
    by_cases hb : b = Config.start
    · exact .inl ⟨hb, by rw [if_pos hb, hb]⟩
    · exact .inr ⟨hb, by rw [if_neg hb, if_pos hb]⟩
  case readId => rfl
  case readLen =>
    by_cases h0 : b = 0x00
    · subst h0; exact .inl ⟨by decide, rfl⟩
    · have h1 := hz h0
      rcases Nat.lt_or_ge 8 b.toNat with h8 | h8
      · exact .inr ⟨h8, by rw [if_neg h0, if_neg (by simp only [Config.maxLen]; omega), if_pos (show Config.maxLen < b.toNat from h8)]; rfl⟩
      · exact .inl ⟨h8, by rw [if_neg h0, if_neg h0, if_pos (show b.toNat ≤ Config.maxLen from h8), if_pos ⟨h1, h8⟩]; rfl⟩
  case readChecksum => by_cases hb : b = s.dec.decCrc <;> simp [hb]

/-- Taking a byte touches nothing outside `DEC` and the record. -/
theorem takeByte_frame (b : Byte) (s : State) :
    (takeByte b s).crcu = s.crcu ∧ (takeByte b s).enc = s.enc ∧ (takeByte b s).env = s.env := by
  rcases takeByte_cases b s with h | h | h | h | h | h | h | h | h <;> refine ⟨?_, ?_, ?_⟩ <;>
    (first | rw [h.2.2] | rw [h.2]) <;> rfl

/-- What `DEC` does at an edge: one byte taken, a start, or nothing. -/
theorem exec_selectDec (s : State) (p : Ports) :
    exec (selectDec s.dec.decState s.dec.decCrc p) s =
      .next (if s.dec.decState.reading then (if p.rxValid then takeByte p.rxData s else s)
        else if p.host.decStart then startAttempt s else s) := by
  cases h : s.dec.decState <;> simp only [selectDec, DecState.reading] <;> split <;>
    first
    | rfl
    | (rw [← h, exec_selectDecByte]; simp)
    | simp [exec, execDecStart, effDecStart, h, DecState.reading]

end Sys2Proof.Machine
end

