-- ==== Sys2Proof/Laws/Functional.lean ====
section
/-! SUPPORT. Repeated attempts: an ended attempt consumes at least one byte and no more than there are, so `decode_all` goes
on with what is left (42_decoder.md R184). -/

namespace Sys2Proof.Machine

/-- Two frames with the same ID and payload are the same frame. -/
theorem Frame.eq_of_fields {f g : Frame} (hi : f.id = g.id) (hd : f.data = g.data) : f = g := by
  cases f; cases g; cases hi; cases hd; rfl

@[simp] theorem Frame.ofPayload_id (id : Byte) (d : Payload) (n : Nat) : (Frame.ofPayload id d n).id = id := rfl

@[simp] theorem Frame.ofPayload_data (id : Byte) (d : Payload) (n : Nat) : (Frame.ofPayload id d n).data = d.upTo n := rfl

/-- The LEN byte of a frame is the number of its payload bytes. -/
theorem Frame.toNat_len (f : Frame) : f.len.toNat = f.data.length :=
  (BitVec.toNat_ofNat _ _).trans (Nat.mod_eq_of_lt (Nat.lt_of_le_of_lt f.short (by decide)))

theorem decodeTail_done_bounds {i len : Byte} {legal : len.toNat ≤ Config.maxLen} {body : List Byte} {r : Result}
    {n : Nat} (h : decodeTail i len legal body = .done r n) : n = 4 + len.toNat ∧ len.toNat < body.length := by
  unfold decodeTail at h
  split at h
  · cases h
  · split at h
    · cases h
    · next hd =>
      have hl := congrArg List.length hd
      simp only [List.length_drop, List.length_cons] at hl
      split at h <;> cases h <;> exact ⟨rfl, by omega⟩

/-- How much an ended attempt consumes, at least and at most. -/
theorem decode_done_bounds {s : List Byte} {r : Result} {n : Nat} (h : decode s = .done r n) :
    1 ≤ n ∧ n ≤ s.length := by
  unfold decode at h
  split at h
  · cases h
  · split at h
    · cases h; exact ⟨Nat.le_refl _, by simp⟩
    · split at h
      · cases h
      · cases h
      · split at h
        · obtain ⟨hn, hl⟩ := decodeTail_done_bounds h
          simp only [List.length_cons]
          omega
        · cases h; exact ⟨by decide, by simp⟩

/-- Any bound that the stream fits in gives the same results. -/
theorem decodeAllWithin_eq {n m : Nat} {s : List Byte} (hn : s.length ≤ n) (hm : s.length ≤ m) :
    decodeAllWithin n s = decodeAllWithin m s := by
  induction n generalizing m s with
  | zero =>
    cases List.eq_nil_of_length_eq_zero (Nat.le_zero.mp hn)
    cases m <;> rfl
  | succ n ih =>
    cases m with
    | zero => cases List.eq_nil_of_length_eq_zero (Nat.le_zero.mp hm); rfl
    | succ m =>
      simp only [decodeAllWithin]
      cases hd : decode s with
      | pending => rfl
      | done r k =>
        have hk := decode_done_bounds hd
        exact congrArg _ (ih (by simp; omega) (by simp; omega))

/-- The equation of `decode_all` for an ended attempt. -/
theorem decodeAll_of_done {s : List Byte} {r : Result} {n : Nat} (h : decode s = .done r n) :
    decodeAll s = r :: decodeAll (s.drop n) := by
  have hk := decode_done_bounds h
  unfold decodeAll
  cases hl : s.length with
  | zero => omega
  | succ k =>
    simp only [decodeAllWithin, h]
    exact congrArg _ (decodeAllWithin_eq (by simp; omega) (Nat.le_refl _))

/-- Nothing taken, nothing reported. -/
theorem consumed_nil : Consumed [] [] := fun _ => rfl

/-- One ended attempt more, on bytes on which `decode` ends whatever follows them. -/
theorem Consumed.append {before w : List Byte} {rs : List Result} {r : Result} (hb : Consumed before rs)
    (h : ∀ t, decode (w ++ t) = .done r w.length) : Consumed (before ++ w) (rs ++ [r]) := by
  intro t
  rw [List.append_assoc, hb, decodeAll_of_done (h t), List.drop_left, List.append_assoc]
  rfl

end Sys2Proof.Machine
end

