-- ==== Sys2Proof/Laws/Payload.lean ====
section
/-! SUPPORT. The payload buffer: what a read gives after a write, and its leading entries as a list. -/

namespace Sys2Proof.Payload

open Sys2Proof

variable (d : Payload) (b : Byte)

/-- A property of an index holds of every index once it holds of the sixteen values. -/
theorem index_cases {P : Index → Prop} (h : ∀ n : Fin 16, P (BitVec.ofFin n)) (i : Index) : P i := h i.toFin

theorem get_set_self (i : Index) (h : i.toNat < 8) : (d.set i b).get i = b := by
  revert h
  refine index_cases (P := fun i => i.toNat < 8 → (d.set i b).get i = b) (fun n => ?_) i
  fin_cases n <;> first | (intro; rfl) | (intro h; exact absurd h (by decide))

theorem get_set_of_ne (i j : Index) (h : j ≠ i) : (d.set i b).get j = d.get j := by
  revert h
  refine index_cases (P := fun i => j ≠ i → (d.set i b).get j = d.get j) (fun n => ?_) i
  refine index_cases (P := fun j => j ≠ BitVec.ofFin n → (d.set (BitVec.ofFin n) b).get j = d.get j) (fun m => ?_) j
  fin_cases n <;> fin_cases m <;> first | (intro; rfl) | (intro h; exact absurd rfl h)

@[simp] theorem upTo_zero : d.upTo 0 = [] := rfl

theorem length_upTo (n : Nat) (h : n ≤ 8) : (d.upTo n).length = n := by
  simp [upTo, toList, h]

/-- The entries up to and including entry `i`. -/
theorem upTo_succ (i : Index) (h : i.toNat < 8) : d.upTo (i.toNat + 1) = d.upTo i.toNat ++ [d.get i] := by
  revert h
  refine index_cases (P := fun i => i.toNat < 8 → d.upTo (i.toNat + 1) = d.upTo i.toNat ++ [d.get i]) (fun n => ?_) i
  fin_cases n <;> first | (intro; rfl) | (intro h; exact absurd h (by decide))

/-- Writing entry `i` leaves the entries before it. -/
theorem upTo_set (i : Index) : (d.set i b).upTo i.toNat = d.upTo i.toNat := by
  refine index_cases (P := fun i => (d.set i b).upTo i.toNat = d.upTo i.toNat) (fun n => ?_) i
  fin_cases n <;> rfl

/-- Writing entry `i` appends it to the entries before it. -/
theorem upTo_set_succ (i : Index) (h : i.toNat < 8) :
    (d.set i b).upTo (i.toNat + 1) = d.upTo i.toNat ++ [b] := by
  rw [upTo_succ _ i h, upTo_set, get_set_self _ _ i h]

end Sys2Proof.Payload
end

