-- ==== Sys2Proof/Laws/PerInstr.lean ====
section
/-! SUPPORT. Laws stated for every constructor of `Instr`. -/

namespace Sys2Proof.Laws.EncodeLength

open Sys2Proof Sys2Proof.Machine

/-- How long an instruction is on the wire: a frame has 4 bytes and its payload of at most 8, and says so in its third
byte (30_encoding.md R80, R81); an operation has at most the one byte it takes. -/
def Statement (i : Instr) : Prop :=
  match i.frameParts with
  | some (f, _) =>
    f.data.length ≤ Config.maxLen ∧ (encode i).length = Config.minFrame + f.data.length ∧
      (encode i)[2]? = some (BitVec.ofNat 8 f.data.length)
  | none => (encode i).length ≤ 1

theorem rst : Statement .rst := Nat.zero_le _

theorem crcClr : Statement .crcClr := Nat.zero_le _

theorem crcUpd (b : Byte) : Statement (.crcUpd b) := Nat.le_refl _

theorem crcHold : Statement .crcHold := Nat.zero_le _

theorem encLoad (id len : Byte) (d : Payload) : Statement (.encLoad id len d) := Nat.zero_le _

theorem encLoadFault (b : Byte) : Statement (.encLoadFault b) := Nat.zero_le _

theorem encTxStart : Statement .encTxStart := Nat.zero_le _

theorem encTxId : Statement .encTxId := Nat.zero_le _

theorem encTxLen : Statement .encTxLen := Nat.zero_le _

theorem encTxData : Statement .encTxData := Nat.zero_le _

theorem encTxCrc : Statement .encTxCrc := Nat.zero_le _

theorem encWait : Statement .encWait := Nat.zero_le _

theorem encIdle : Statement .encIdle := Nat.zero_le _

theorem decStart : Statement .decStart := Nat.zero_le _

theorem decSofOk : Statement .decSofOk := Nat.le_refl _

theorem decSofBad (b : Byte) : Statement (.decSofBad b) := Nat.le_refl _

theorem decRdId (b : Byte) : Statement (.decRdId b) := Nat.le_refl _

theorem decRdLenZero : Statement .decRdLenZero := Nat.le_refl _

theorem decRdLenNz (b : Byte) : Statement (.decRdLenNz b) := Nat.le_refl _

theorem decRdLenBad (b : Byte) : Statement (.decRdLenBad b) := Nat.le_refl _

theorem decRdData (b : Byte) : Statement (.decRdData b) := Nat.le_refl _

theorem decCrcOk (b : Byte) : Statement (.decCrcOk b) := Nat.le_refl _

theorem decCrcBad (b : Byte) : Statement (.decCrcBad b) := Nat.le_refl _

theorem decWait : Statement .decWait := Nat.zero_le _

theorem decHold : Statement .decHold := Nat.zero_le _

theorem frameL0 (i c : Byte) : Statement (.frameL0 i c) := ⟨Nat.le_of_ble_eq_true rfl, rfl, rfl⟩

theorem frameL1 (i d0 c : Byte) : Statement (.frameL1 i d0 c) := ⟨Nat.le_of_ble_eq_true rfl, rfl, rfl⟩

theorem frameL2 (i d0 d1 c : Byte) : Statement (.frameL2 i d0 d1 c) := ⟨Nat.le_of_ble_eq_true rfl, rfl, rfl⟩

theorem frameL3 (i d0 d1 d2 c : Byte) : Statement (.frameL3 i d0 d1 d2 c) := ⟨Nat.le_of_ble_eq_true rfl, rfl, rfl⟩

theorem frameL4 (i d0 d1 d2 d3 c : Byte) : Statement (.frameL4 i d0 d1 d2 d3 c) := ⟨Nat.le_of_ble_eq_true rfl, rfl, rfl⟩

theorem frameL5 (i d0 d1 d2 d3 d4 c : Byte) : Statement (.frameL5 i d0 d1 d2 d3 d4 c) := ⟨Nat.le_of_ble_eq_true rfl, rfl, rfl⟩

theorem frameL6 (i d0 d1 d2 d3 d4 d5 c : Byte) : Statement (.frameL6 i d0 d1 d2 d3 d4 d5 c) := ⟨Nat.le_of_ble_eq_true rfl, rfl, rfl⟩

theorem frameL7 (i d0 d1 d2 d3 d4 d5 d6 c : Byte) : Statement (.frameL7 i d0 d1 d2 d3 d4 d5 d6 c) := ⟨Nat.le_of_ble_eq_true rfl, rfl, rfl⟩

theorem frameL8 (i d0 d1 d2 d3 d4 d5 d6 d7 c : Byte) : Statement (.frameL8 i d0 d1 d2 d3 d4 d5 d6 d7 c) := ⟨Nat.le_of_ble_eq_true rfl, rfl, rfl⟩

end Sys2Proof.Laws.EncodeLength
end

