-- ==== Sys2Proof/Laws/Step.lean ====
section
/-! SUPPORT. Everything a step can do, said once: an edge, a reception and a delivery as effects on the state, and the
induction that every invariant of the machine goes through. -/

namespace Sys2Proof.Machine

theorem deliver_nil (s : State) : deliver [] s = (s, []) := rfl

theorem deliver_cons_reading {s : State} (h : s.dec.decState.reading = true) (b : Byte) (w : List Byte) :
    deliver (b :: w) s = deliver w (takeByte b s) := by
  show (if rxReady s.dec.decState then _ else _) = _
  rw [if_pos (show rxReady s.dec.decState = true from h)]

theorem deliver_cons_not_reading {s : State} (h : s.dec.decState.reading = false) (b : Byte) (w : List Byte) :
    deliver (b :: w) s = (s, b :: w) := by
  show (if rxReady s.dec.decState then _ else _) = _
  rw [if_neg (show ¬ rxReady s.dec.decState = true from fun h' => absurd (h.symm.trans h') (by decide))]

/-- A delivery stops at once outside the reading states. -/
theorem deliver_not_reading {s : State} (h : s.dec.decState.reading = false) (w : List Byte) :
    deliver w s = (s, w) := by
  cases w with
  | nil => rfl
  | cons b w => exact deliver_cons_not_reading h b w

/-- A delivery is a sequence of bytes taken: what each of them keeps, the delivery keeps. -/
theorem deliver_keeps {P : State → Prop} (hbyte : ∀ b s, s.dec.decState.reading = true → P s → P (takeByte b s)) :
    ∀ (w : List Byte) (s : State), P s → P (deliver w s).1
  | [], _, h => h
  | b :: w, s, h => by
    cases hr : s.dec.decState.reading
    · rw [deliver_cons_not_reading hr]; exact h
    · rw [deliver_cons_reading hr]; exact deliver_keeps hbyte w _ (hbyte b s hr h)

/-- A delivery touches nothing outside `DEC` and the record. -/
theorem deliver_frame (w : List Byte) (s : State) :
    (deliver w s).1.crcu = s.crcu ∧ (deliver w s).1.enc = s.enc ∧ (deliver w s).1.env = s.env :=
  deliver_keeps (P := fun t => t.crcu = s.crcu ∧ t.enc = s.enc ∧ t.env = s.env)
    (fun b t _ ⟨h1, h2, h3⟩ => by
      obtain ⟨g1, g2, g3⟩ := takeByte_frame b t
      exact ⟨g1.trans h1, g2.trans h2, g3.trans h3⟩) w s ⟨rfl, rfl, rfl⟩

/-- The bytes taken and the bytes not taken are together the bytes delivered. -/
theorem deliver_taken : ∀ (w : List Byte) (s : State),
    ∃ v, w = v ++ (deliver w s).2 ∧ (deliver w s).1.hist.rxTaken = s.hist.rxTaken ++ v ∧
      (deliver w s).1.hist.rxAll = s.hist.rxAll ++ v
  | [], s => ⟨[], rfl, by simp [deliver], by simp [deliver]⟩
  | b :: w, s => by
    cases hr : s.dec.decState.reading
    · exact ⟨[], by simp [deliver_cons_not_reading hr]⟩
    · rw [deliver_cons_reading hr]
      obtain ⟨v, h1, h2, h3⟩ := deliver_taken w (takeByte b s)
      have ht : (takeByte b s).hist.rxTaken = s.hist.rxTaken ++ [b] ∧
          (takeByte b s).hist.rxAll = s.hist.rxAll ++ [b] := by
        rcases takeByte_cases b s with h | h | h | h | h | h | h | h | h <;>
          first
          | exact absurd (hr.symm.trans h.1) (by decide)
          | (constructor <;> (first | rw [h.2.2] | rw [h.2]) <;> rfl)
      refine ⟨b :: v, by rw [List.cons_append, ← h1], ?_, ?_⟩
      · rw [h2, ht.1, List.append_assoc]; rfl
      · rw [h3, ht.2, List.append_assoc]; rfl

/-- What an edge leads to: RST alone, or one operation of each unit (30_encoding.md R89). -/
theorem edgeStep_eq (e : Edge) (s : State) :
    edgeStep e s =
      .next (if e.host.rst then effRst (transport e s)
        else effect (selectDec s.dec.decState s.dec.decCrc (edgePorts e s))
          (effect (selectEnc s.enc.encState (edgePorts e s)) (effect (selectCrcu e.host) (transport e s)))) := by
  unfold edgeStep selectedAt selected
  rw [edgePorts_host]
  cases e.host.rst <;> simp [execAll, exec_eq_next, effect]

/-- What a reception leads to: the bytes at the head of the stream, a whole frame or what there is of one, delivered. -/
theorem recvStep_eq (s : State) :
    ∃ w q, recvStep s = .next (receive w (withRxQueue q s)) ∧
      (∀ i rest, decodeWire s.env.rxQueue = .frame i rest → exec i (withRxQueue rest s) = recvStep s) := by
  unfold recvStep
  cases h : decodeWire s.env.rxQueue with
  | frame i rest =>
    refine ⟨encode i, rest, ?_, fun j r hj => by injection hj with h1 h2; rw [h1, h2]⟩
    simp only [exec_eq_next]
    by_cases hf : i.isFrame = true
    · rw [effect_of_isFrame hf]
    · exfalso
      revert h
      unfold decodeWire
      repeat' split
      all_goals intro h
      all_goals first | cases h | skip
      revert h
      unfold decodeBody
      repeat' split
      all_goals intro h
      all_goals cases h
      rename_i hfr _
      revert hfr
      unfold frameOf
      split <;> intro hfr <;> cases hfr <;> exact absurd rfl hf
  | reject why => exact ⟨_, _, rfl, fun _ _ hj => by cases hj⟩

/-! #### The next thing the environment does -/

theorem step_edge {s : State} {e : Edge} {rest : List Stim} (h : s.env.stims = .edge e :: rest) :
    step s = edgeStep e (withStims rest s) := by
  unfold step nextStim; rw [h]; rfl

theorem step_recv {s : State} {rest : List Stim} (h : s.env.stims = .recv :: rest) :
    step s = recvStep (withStims rest s) := by
  unfold step nextStim; rw [h]; rfl

theorem step_feed {s : State} {bs : List Byte} {rest : List Stim} (h : s.env.stims = .feed bs :: rest) :
    step s = .next (withRxQueue (s.env.rxQueue ++ bs) (withStims rest s)) := by
  unfold step nextStim; rw [h]; rfl

theorem step_stmt {s : State} {st : Stmt} {rest : List Stim} (h : s.env.stims = .stmt st :: rest) :
    step s = stmtStep st (withStims rest s) := by
  unfold step nextStim; rw [h]; rfl

theorem step_quiet {s : State} (h : s.env.stims = []) (ha : s.env.after = .quiet) : step s = edgeStep Edge.quiet s := by
  unfold step nextStim; rw [h, ha]; rfl

theorem step_free {s : State} {n : Nat} (h : s.env.stims = []) (ha : s.env.after = .free n) :
    step s = stimStep (Config.laterStim n) { s with env := { s.env with after := .free (n + 1) } } := by
  unfold step nextStim; simp only [h, ha]

/-- A statement that drives its ports is an edge. -/
theorem stmtStep_drive {st : Stmt} {s : State} {h : HostPorts} {plan : List Stim} (ha : st.act s = .drive h plan) :
    stmtStep st s = edgeStep (hostEdge h (nextPace s.env).1 s.env.wired)
      { s with env := { (nextPace s.env).2 with stims := plan } } := by
  unfold stmtStep; rw [ha]

/-- A statement that takes no edge changes the environment alone. -/
theorem stmtStep_look {st : Stmt} {s : State} {env : Env} (ha : st.act s = .look env) :
    stmtStep st s = .next { s with env := env } := by
  unfold stmtStep; rw [ha]

/-- A transport at one pace for good: every edge of a script goes at it, and what arrives joins the stream. -/
theorem nextPace_always {env : Env} {p : Pace} (hp : env.pace = []) (ha : env.paceAfter = .always p) :
    nextPace env = (p, { env with rxQueue := env.rxQueue ++ p.arrives }) := by
  unfold nextPace; rw [hp, ha]

/-- With a transport that is always ready, nothing else arrives. -/
theorem nextPace_ready {env : Env} (hp : env.pace = []) (ha : env.paceAfter = .always Pace.ready) :
    nextPace env = (Pace.ready, env) := by
  rw [nextPace_always hp ha, show Pace.ready.arrives = [] from rfl, List.append_nil]

/-- What taking a pace leaves alone. -/
theorem nextPace_frame (env : Env) :
    (nextPace env).2.stims = env.stims ∧ (nextPace env).2.after = env.after ∧ (nextPace env).2.txLine = env.txLine ∧
      (nextPace env).2.wired = env.wired ∧ (nextPace env).2.txSent = env.txSent ∧
      (nextPace env).2.txSeen = env.txSeen ∧ (nextPace env).2.answers = env.answers ∧
      (nextPace env).2.rxQueue = env.rxQueue ++ (nextPace env).1.arrives := by
  unfold nextPace
  repeat' split
  all_goals exact ⟨rfl, rfl, rfl, rfl, rfl, rfl, rfl, rfl⟩

/-- Whatever the environment does, it is an edge, a delivery, or a change of the environment alone. -/
theorem stimStep_cases (x : Stim) (s : State) :
    (∃ e env, stimStep x s = edgeStep e { s with env := env }) ∨
      (∃ w q, stimStep x s = .next (receive w (withRxQueue q s))) ∨ ∃ env, stimStep x s = .next { s with env := env } := by
  cases x with
  | edge e => exact .inl ⟨e, s.env, rfl⟩
  | recv =>
    obtain ⟨w, q, h, -⟩ := recvStep_eq s
    exact .inr (.inl ⟨w, q, h⟩)
  | feed bs => exact .inr (.inr ⟨_, rfl⟩)
  | stmt st =>
    cases h : st.act s with
    | drive p plan => exact .inl ⟨_, _, stmtStep_drive h⟩
    | look env => exact .inr (.inr ⟨env, stmtStep_look h⟩)

/-- The induction behind every invariant: what does not look at the environment and is kept by reset, by each operation of
`CRCU`, by the operation `ENC` selects, by a start outside an attempt and by each byte taken in one, is kept by every
step. -/
theorem step_keeps {P : State → Prop} (henv : ∀ s e, P s → P { s with env := e }) (hrst : ∀ s, P s → P (effRst s))
    (hcrcu : ∀ h s, P s → P (effect (selectCrcu h) s))
    (henc : ∀ p s, P s → P (effect (selectEnc s.enc.encState p) s))
    (hstart : ∀ s, s.dec.decState.reading = false → P s → P (startAttempt s))
    (hbyte : ∀ b s, s.dec.decState.reading = true → P s → P (takeByte b s)) {s t : State} (hs : P s)
    (h : step s = .next t) : P t := by
  have hedge : ∀ e s, P s → ∀ t, edgeStep e s = .next t → P t := by
    intro e s hs t h
    rw [edgeStep_eq] at h
    injection h with h
    subst h
    have h0 : P (transport e s) := henv s _ hs
    cases e.host.rst
    · have h1 := hcrcu e.host _ h0
      obtain ⟨f1, f1d, -⟩ := effect_selectCrcu_frame e.host (transport e s)
      have h2 := henc (edgePorts e s) _ h1
      have f2 := (effect_selectEnc_frame (edgePorts e s) (effect (selectCrcu e.host) (transport e s))).2.1.trans f1d
      rw [f1] at h2 f2
      rw [transport_enc] at h2 f2
      rw [transport_dec] at f2
      revert h2 f2
      generalize effect (selectEnc s.enc.encState (edgePorts e s))
          (effect (selectCrcu e.host) (transport e s)) = u
      intro h2 f2
      have h3 := exec_selectDec u (edgePorts e s)
      rw [exec_eq_next, f2] at h3
      injection h3 with h3
      simp only [Bool.false_eq_true, if_false]
      rw [h3]
      split
      · split
        · exact hbyte _ _ (by rw [f2]; assumption) h2
        · exact h2
      · split
        · exact hstart _ (by rw [f2]; simp_all) h2
        · exact h2
    · exact hrst _ h0
  have hrecv : ∀ w q s, P s → P (receive w (withRxQueue q s)) := fun w q s hs =>
    henv _ _ (deliver_keeps hbyte w _ (henv s _ hs))
  have h0 : P { s with env := (nextStim s.env).2 } := henv s _ hs
  unfold step at h
  rcases stimStep_cases (nextStim s.env).1 { s with env := (nextStim s.env).2 } with ⟨e, env, hx⟩ | ⟨w, q, hx⟩ | ⟨env, hx⟩
  · exact hedge e _ (henv _ env h0) t (hx ▸ h)
  · injection hx ▸ h with h
    exact h ▸ hrecv w q _ h0
  · injection hx ▸ h with h
    exact h ▸ henv _ env h0

theorem run_zero (s : State) : Host.Core.run Sys2Proof.core 0 s = .next s := rfl

/-- A run goes through its first step. -/
theorem run_succ {s t : State} (h : step s = .next t) (k : Nat) :
    Host.Core.run Sys2Proof.core (k + 1) s = Host.Core.run Sys2Proof.core k t :=
  (Host.Core.run.eq_2 Sys2Proof.core s k).trans (by
    have h' : Sys2Proof.core.step s = .next t := h
    rw [h'])

/-- A run of `j + k` steps is a run of `j` steps and then one of `k`. -/
theorem run_add (j k : Nat) {s t : State} (h : Host.Core.run Sys2Proof.core j s = .next t) :
    Host.Core.run Sys2Proof.core (j + k) s = Host.Core.run Sys2Proof.core k t := by
  induction j generalizing s with
  | zero => injection h with h; subst h; rw [Nat.zero_add]
  | succ j ih =>
    obtain ⟨u, hu⟩ : ∃ u, step s = .next u := by
      cases hs : step s with
      | next u => exact ⟨u, rfl⟩
      | fault r => cases r
      | refused r =>
        have h' := (Host.Core.run.eq_2 Sys2Proof.core s j).symm.trans h
        rw [show Sys2Proof.core.step s = .refused r from hs] at h'
        cases h'
    rw [run_succ hu] at h
    rw [Nat.add_right_comm, run_succ hu, ih h]

end Sys2Proof.Machine
end

