-- ==== Sys2Proof/Tests/Slice0.lean ====
section
/-! SUPPORT. The model's own tests. Expected values come from 95_test_vectors.md, whose vector is named at each test, or
from the worked example of the rule named. After them, one witness for the hypotheses of each statement that has any. -/

namespace Sys2Proof.Tests

open Sys2Proof Sys2Proof.Machine

set_option maxRecDepth 20000

/-! ### States and readings -/

/-- The payload of the known frame (95_test_vectors.md S8). -/
def knownData : Payload := { zeroPayload with d0 := 0x11, d1 := 0x22, d2 := 0x33 }

/-- The reset state with the encoder somewhere in the known frame. -/
def encAt (st : EncState) (idx : Index) (crc : Byte) : State :=
  { State.reset with
    enc := { encState := st, encIdR := 0x10, encLenR := 0x03, encDataR := knownData, encIdx := idx, encCrc := crc,
             encFault := false } }

/-- The reset state with the decoder somewhere in an attempt: the registers given, and the bytes taken so far. -/
def decAt (st : DecState) (id len : Byte) (d : Payload) (idx : Index) (crc : Byte) (taken : List Byte) : State :=
  { State.reset with
    dec := { decState := st, decErrR := none, decIdR := id, decLenR := len, decDataR := d, decIdx := idx, decCrc := crc,
             decCrcRx := 0x00 }
    hist := { History.empty with rxTaken := taken, rxAll := taken } }

/-- What an outcome's next state holds. -/
def look {α : Type} (o : Host.Outcome State Fault Refusal) (f : State → α) : Option α :=
  match o with
  | .next t => some (f t)
  | .fault _ => none
  | .refused _ => none

/-- The reset state with the environment about to do `e`. -/
def atEdge (e : Edge) (s : State) : State := withStims [.edge e] s

/-! ### Well-formedness: each check refuses an ill-formed term -/

theorem test_wf_enc_load : (Instr.encLoad 0x10 0x09 knownData).wf = false ∧ (Instr.encLoad 0x10 0x08 knownData).wf = true := by
  decide

theorem test_wf_enc_load_fault : (Instr.encLoadFault 0x08).wf = false ∧ (Instr.encLoadFault 0x09).wf = true := by decide

theorem test_wf_dec_sof_bad : (Instr.decSofBad 0xAA).wf = false ∧ (Instr.decSofBad 0xAB).wf = true := by decide

theorem test_wf_dec_rd_len_nz :
    (Instr.decRdLenNz 0x00).wf = false ∧ (Instr.decRdLenNz 0x09).wf = false ∧ (Instr.decRdLenNz 0x08).wf = true := by
  decide

theorem test_wf_dec_rd_len_bad : (Instr.decRdLenBad 0x08).wf = false ∧ (Instr.decRdLenBad 0xFF).wf = true := by decide

/-- S9: one bit of the checksum byte of V-E2, V-E5 and the known frame. -/
theorem test_wf_frames_0_1_3 :
    (Instr.frameL0 0xFF 0xD6).wf = false ∧ (Instr.frameL1 0x42 0xA0 0x2D).wf = false ∧
      (Instr.frameL3 0x10 0x11 0x22 0x33 0x4F).wf = false ∧ (Instr.frameL3 0x10 0x11 0x22 0x33 0xDC).wf = true := by
  decide

/-- One bit of the checksum byte of V-E6, V-E8 and V-E9. -/
theorem test_wf_frames_2_4_5 :
    (Instr.frameL2 0x42 0xA0 0xA1 0x16).wf = false ∧ (Instr.frameL4 0x42 0xA0 0xA1 0xA2 0xA3 0x24).wf = false ∧
      (Instr.frameL5 0x42 0xA0 0xA1 0xA2 0xA3 0xA4 0xA6).wf = false := by
  decide

/-- One bit of the checksum byte of V-E10, V-E11 and V-E3. -/
theorem test_wf_frames_6_7_8 :
    (Instr.frameL6 0x42 0xA0 0xA1 0xA2 0xA3 0xA4 0xA5 0x69).wf = false ∧
      (Instr.frameL7 0x42 0xA0 0xA1 0xA2 0xA3 0xA4 0xA5 0xA6 0x76).wf = false ∧
      (Instr.frameL8 0x00 0x01 0x02 0x03 0x04 0x05 0x06 0x07 0x08 0xFE).wf = false := by
  decide

/-! ### Decoding: words written bit by bit from 30_encoding.md R81, and the conditions of R90, R91 and 40_crc8.md R118 -/

/-- V-E2: `10101010 iiiiiiii 00000000 cccccccc`. -/
theorem test_decode_frame_l0 :
    decodeTableWord 32 0b10101010_11111111_00000000_11010111 = some (.frameL0 0xFF 0xD7) := by decide

/-- V-E18. -/
theorem test_decode_frame_l1 :
    decodeTableWord 40 0b10101010_01010101_00000001_01010101_01011101 = some (.frameL1 0x55 0x55 0x5D) := by decide

/-- V-E14: START values inside the body are data. -/
theorem test_decode_frame_l2 :
    decodeTableWord 48 0b10101010_10101010_00000010_10101010_10101010_01110000 =
      some (.frameL2 0xAA 0xAA 0xAA 0x70) := by decide

/-- V-E1. -/
theorem test_decode_frame_l3 :
    decodeTableWord 56 0b10101010_00010000_00000011_00010001_00100010_00110011_11011100 =
      some (.frameL3 0x10 0x11 0x22 0x33 0xDC) := by decide

/-- V-E19. -/
theorem test_decode_frame_l4 :
    decodeWire [0b10101010, 0b00100000, 0b00000100, 0b10101010, 0b00000001, 0b00000000, 0b00010101, 0b11010111] =
      .frame (.frameL4 0x20 0xAA 0x01 0x00 0x15 0xD7) [] := by decide

/-- V-E20. -/
theorem test_decode_frame_l5 :
    decodeWire [0b10101010, 0b10101001, 0b00000101, 0b11011011, 0b01101000, 0b11111100, 0b01100111, 0b10101001,
        0b11111010] =
      .frame (.frameL5 0xA9 0xDB 0x68 0xFC 0x67 0xA9 0xFA) [] := by decide

/-- V-E10. -/
theorem test_decode_frame_l6 :
    decodeWire [0b10101010, 0b01000010, 0b00000110, 0b10100000, 0b10100001, 0b10100010, 0b10100011, 0b10100100,
        0b10100101, 0b01101000] =
      .frame (.frameL6 0x42 0xA0 0xA1 0xA2 0xA3 0xA4 0xA5 0x68) [] := by decide

/-- V-E11, with a byte after it. -/
theorem test_decode_frame_l7 :
    decodeWire [0b10101010, 0b01000010, 0b00000111, 0b10100000, 0b10100001, 0b10100010, 0b10100011, 0b10100100,
        0b10100101, 0b10100110, 0b01110111, 0b10011001] =
      .frame (.frameL7 0x42 0xA0 0xA1 0xA2 0xA3 0xA4 0xA5 0xA6 0x77) [0x99] := by decide

/-- V-E3. -/
theorem test_decode_frame_l8 :
    decodeTableWord 96 0xAA00080102030405060708FF =
      some (.frameL8 0x00 0x01 0x02 0x03 0x04 0x05 0x06 0x07 0x08 0xFF) := by decide

/-- 30_encoding.md R85: the illegal values at offsets 0 and 2, and a frame that has not arrived whole. -/
theorem test_decode_rejects :
    decodeWire [0b01010101, 0b00010000] = .reject .badStartByte ∧
      decodeWire [0b10101010, 0b00000000, 0b00001001, 0b00000000] = .reject .lengthOutOfRange ∧
      decodeWire [0b10101010, 0b00010000, 0b00000011, 0b00010001] = .reject (.truncated .readData 1) := by decide

/-- The rows of DEC in `AwaitStart` and `ReadLen` (opcode table; V-D3, V-H6, V-H7, V-T3). -/
theorem test_decode_dec_bytes :
    selectDecByte .awaitStart 0x00 0b10101010 = .decSofOk ∧ selectDecByte .awaitStart 0x00 0b10101011 = .decSofBad 0xAB ∧
      selectDecByte .readId 0x00 0b10101010 = .decRdId 0xAA ∧
      selectDecByte .readLen 0x70 0b00000000 = .decRdLenZero ∧ selectDecByte .readLen 0x70 0b00001000 = .decRdLenNz 0x08 ∧
      selectDecByte .readLen 0x70 0b00001001 = .decRdLenBad 0x09 ∧
      selectDecByte .readLen 0x70 0b11111111 = .decRdLenBad 0xFF ∧
      selectDecByte .readData 0x5E 0b10101010 = .decRdData 0xAA ∧
      selectDecByte .readChecksum 0xDC 0b11011100 = .decCrcOk 0xDC ∧
      selectDecByte .readChecksum 0xDC 0b01001111 = .decCrcBad 0x4F := by decide

/-- The words of one byte: the row of `AwaitStart` that the byte matches (log entry 3). -/
theorem test_decode_table_bytes :
    decodeTableWord 8 0b10101010 = some .decSofOk ∧ decodeTableWord 8 0b11000000 = some (.decSofBad 0xC0) := by decide

/-- 2.5, edges 1, 3 and 5: update, hold, and clear wins over update. -/
theorem test_decode_crcu :
    selectCrcu { HostPorts.quiet with crcEn := true, crcDin := 0x10 } = .crcUpd 0x10 ∧
      selectCrcu { HostPorts.quiet with crcDin := 0x77 } = .crcHold ∧
      selectCrcu { HostPorts.quiet with crcClr := true, crcEn := true, crcDin := 0x55 } = .crcClr := by decide

/-- V-F1, V-F2, V-F5, V-G3. -/
theorem test_decode_enc_cmd :
    selectEnc .encIdle { Ports.quiet with host := { HostPorts.quiet with encValid := true, encLen := 0x09 } } =
        .encLoadFault 0x09 ∧
      selectEnc .encIdle { Ports.quiet with host := { HostPorts.quiet with encValid := true, encLen := 0x08 } } =
        .encLoad 0x00 0x08 zeroPayload ∧
      selectEnc .encData { Ports.quiet with host := { HostPorts.quiet with encValid := true, encLen := 0x09 } } =
        .encWait ∧
      selectEnc .encIdle { Ports.quiet with txReady := true } = .encIdle := by decide

/-- 3.2: one operation for each sending state. -/
theorem test_decode_enc_tx :
    selectEnc .encStart { Ports.quiet with txReady := true } = .encTxStart ∧
      selectEnc .encId { Ports.quiet with txReady := true } = .encTxId ∧
      selectEnc .encLen { Ports.quiet with txReady := true } = .encTxLen ∧
      selectEnc .encData { Ports.quiet with txReady := true } = .encTxData ∧
      selectEnc .encCrc { Ports.quiet with txReady := true } = .encTxCrc := by decide

/-- V-H1, V-H3, V-H4, V-R2. -/
theorem test_decode_dec_cmd :
    selectDec .readLen 0xC9 { Ports.quiet with host := { HostPorts.quiet with decStart := true } } = .decWait ∧
      selectDec .accepted 0xDC
        { Ports.quiet with host := { HostPorts.quiet with decStart := true }, rxValid := true, rxData := 0xAA } =
        .decStart ∧
      selectDec .rejected 0xDC { Ports.quiet with rxValid := true, rxData := 0xAA } = .decHold ∧
      selected .encIdle .decIdle 0x00 { Ports.quiet with host := { HostPorts.quiet with rst := true, crcEn := true } } =
        [.rst] := by decide

/-! ### The functions -/

/-- V-B3, V-B5, V-B6, V-B8. -/
theorem test_crc8_bit : crc8Bit 0x40 = 0x80 ∧ crc8Bit 0x80 = 0x07 ∧ crc8Bit 0x81 = 0x05 ∧ crc8Bit 0xFF = 0xF9 := by
  decide

/-- V-C8, V-C9, V-C13, V-C19. -/
theorem test_crc8 :
    crc8 [0x10, 0x03, 0x11, 0x22, 0x33] = 0xDC ∧
      crc8 [0x31, 0x32, 0x33, 0x34, 0x35, 0x36, 0x37, 0x38, 0x39] = 0xF4 ∧ crc8 [0xFF, 0xFF] = 0x24 ∧
      crc8 [0xAA, 0x02, 0xAA, 0xAA] = 0x70 := by decide

/-- V-E15, V-E21 (the caller's entries from index 3 on are ignored). -/
theorem test_encode :
    (Frame.ofPayload 0x00 zeroPayload 8).encode =
        [0xAA, 0x00, 0x08, 0x00, 0x00, 0x00, 0x00, 0x00, 0x00, 0x00, 0x00, 0xC1] ∧
      (Frame.ofPayload 0x10 ⟨0x11, 0x22, 0x33, 0x99, 0x98, 0x97, 0x96, 0x95⟩ 3).encode =
        [0xAA, 0x10, 0x03, 0x11, 0x22, 0x33, 0xDC] := by decide

/-- V-D7, V-D12, V-D18, and table 4.2, offset 2, bits 1 and 2. -/
theorem test_decode_function :
    decode [0xAA, 0x10, 0x03, 0x11, 0x22, 0x33, 0x4F] = .done (.err .checksumMismatch) 7 ∧
      decode [0xAA, 0xA9, 0x01, 0xDB, 0x68, 0xFC, 0x67, 0xA9, 0xFA] = .done (.ok (.mk 0xA9 [0xDB])) 5 ∧
      decode [0xAA, 0x10, 0x03, 0x11] = .pending .readData 1 ∧
      decode [0xAA, 0x10, 0x01, 0x11, 0x22, 0x33, 0xDC] = .done (.err .checksumMismatch) 5 ∧
      decode [0xAA, 0x10, 0x07, 0x11, 0x22, 0x33, 0xDC] = .pending .readData 4 := by decide

/-- P2: a bad start byte, then a good empty frame. -/
theorem test_decode_all :
    decodeAll [0x55, 0xAA, 0xFF, 0x00, 0xD7] = [.err .badStartByte, .ok (.mk 0xFF [])] := by decide

/-! ### One operation each -/

/-- V-R1. -/
theorem test_rst :
    look (exec .rst { (encAt .encData 1 0xEA) with crcu := { crcQ := 0xDC } })
      (fun t => (t.crcu, t.enc, t.dec)) = some (State.reset.crcu, State.reset.enc, State.reset.dec) := by decide

/-- A reset edge with every command given. -/
def allCommands : Edge :=
  { Edge.quiet with
    host := { HostPorts.quiet with rst := true, crcEn := true, crcDin := 0x10, encValid := true, decStart := true } }

/-- V-R2: commands at a reset edge are ignored. -/
theorem test_rst_overrides :
    look (step (atEdge allCommands State.reset)) (fun t => (t.crcu.crcQ, t.enc.encState, t.dec.decState)) =
      some (0x00, .encIdle, .decIdle) := by decide

theorem test_crc_clr :
    look (exec .crcClr { State.reset with crcu := { crcQ := 0xDC } }) (fun t => t.crcu.crcQ) = some 0x00 := by decide

/-- 2.5, edges 2 and 8. -/
theorem test_crc_upd :
    look (exec (.crcUpd 0x03) { State.reset with crcu := { crcQ := 0x70 } }) (fun t => t.crcu.crcQ) = some 0x5E ∧
      look (exec (.crcUpd 0x97) { State.reset with crcu := { crcQ := 0x97 } }) (fun t => t.crcu.crcQ) = some 0x00 := by
  decide

theorem test_crc_hold :
    look (exec .crcHold { State.reset with crcu := { crcQ := 0x5E } }) (fun t => t.crcu.crcQ) = some 0x5E := by decide

/-- 3.2, edge 1; V-F4: the flag set before stays set. -/
theorem test_enc_load :
    look (exec (.encLoad 0x10 0x03 knownData) State.reset) (fun t => t.enc) = some (encAt .encStart 0 0x00).enc ∧
      look (exec (.encLoad 0x01 0x00 zeroPayload) (raiseEncLengthFault State.reset))
        (fun t => (t.enc.encState, t.enc.encFault)) = some (.encStart, true) := by decide

/-- V-F1, V-F3. -/
theorem test_enc_load_fault :
    look (exec (.encLoadFault 0x09) State.reset) (fun t => t.enc) =
        some { State.reset.enc with encFault := true } ∧
      look (exec (.encLoadFault 0xFF) State.reset) (fun t => txValid t.enc.encState) = some false := by decide

/-- 3.2, edge 2. -/
theorem test_enc_tx_start :
    look (exec .encTxStart (encAt .encStart 0 0x00)) (fun t => (t.enc, t.hist.txFired)) =
      some ((encAt .encId 0 0x00).enc, [0xAA]) := by decide

/-- 3.2, edge 3. -/
theorem test_enc_tx_id :
    look (exec .encTxId (encAt .encId 0 0x00)) (fun t => (t.enc, t.hist.txFired)) =
      some ((encAt .encLen 0 0x70).enc, [0x10]) := by decide

/-- 3.2, edge 4; P6: with length 0 the next state is EncCrc. -/
theorem test_enc_tx_len :
    look (exec .encTxLen (encAt .encLen 0 0x70)) (fun t => (t.enc, t.hist.txFired)) =
        some ((encAt .encData 0 0x5E).enc, [0x03]) ∧
      look (exec .encTxLen { State.reset with
          enc := { State.reset.enc with encState := .encLen, encIdR := 0x01, encCrc := 0x07 } })
        (fun t => (t.enc.encState, t.enc.encCrc)) = some (.encCrc, 0x15) := by decide

/-- 3.2, edges 5 and 7. -/
theorem test_enc_tx_data :
    look (exec .encTxData (encAt .encData 0 0x5E)) (fun t => (t.enc, t.hist.txFired)) =
        some ((encAt .encData 1 0xEA).enc, [0x11]) ∧
      look (exec .encTxData (encAt .encData 2 0x76)) (fun t => (t.enc, t.hist.txFired)) =
        some ((encAt .encCrc 3 0xDC).enc, [0x33]) := by decide

/-- V-G4: the eighth byte of a maximal payload. -/
theorem test_enc_tx_data_last :
    look (exec .encTxData { State.reset with
        enc := { State.reset.enc with encState := .encData, encLenR := 0x08, encIdx := 7
                                      encDataR := ⟨1, 2, 3, 4, 5, 6, 7, 8⟩, encCrc := 0x40 } })
      (fun t => (t.enc.encState, t.enc.encIdx, t.enc.encCrc)) = some (.encCrc, 8, 0xFF) := by decide

/-- 3.2, edge 8. -/
theorem test_enc_tx_crc :
    look (exec .encTxCrc (encAt .encCrc 3 0xDC)) (fun t => (t.enc, t.hist.txFired)) =
      some ((encAt .encIdle 3 0xDC).enc, [0xDC]) := by decide

theorem test_enc_wait :
    look (exec .encWait (encAt .encData 1 0xEA)) (fun t => (t.enc, txData t.enc)) =
      some ((encAt .encData 1 0xEA).enc, 0x22) := by decide

/-- 3.2, edge 9. -/
theorem test_enc_idle :
    look (exec .encIdle (encAt .encIdle 3 0xDC)) (fun t => t.enc) = some (encAt .encIdle 3 0xDC).enc := by decide

/-- V-H3: the previous result is destroyed and no byte is taken. -/
theorem test_dec_start :
    look (step (withRxQueue [0xAA] (atEdge { Edge.offer with host := { HostPorts.quiet with decStart := true } }
        (decAt .accepted 0x10 0x03 knownData 3 0xDC []))))
      (fun t => (t.dec, t.env.rxQueue)) = some ((decAt .awaitStart 0x00 0x00 zeroPayload 0 0x00 []).dec, [0xAA]) := by
  decide

theorem test_dec_sof_ok :
    look (exec .decSofOk (decAt .awaitStart 0x00 0x00 zeroPayload 0 0x00 [])) (fun t => t.dec) =
      some (decAt .readId 0x00 0x00 zeroPayload 0 0x00 []).dec := by decide

/-- V-T1. -/
theorem test_dec_sof_bad :
    look (exec (.decSofBad 0x55) (decAt .awaitStart 0x00 0x00 zeroPayload 0 0x00 []))
      (fun t => (t.dec.decState, decErr t.dec.decErrR, t.dec.decCrc, t.hist.rxTaken)) =
      some (.rejected, 1, 0x00, [0x55]) := by decide

/-- 4.3, edge 3. -/
theorem test_dec_rd_id :
    look (exec (.decRdId 0x10) (decAt .readId 0x00 0x00 zeroPayload 0 0x00 [])) (fun t => t.dec) =
      some (decAt .readLen 0x10 0x00 zeroPayload 0 0x70 []).dec := by decide

/-- V-T6. -/
theorem test_dec_rd_len_zero :
    look (exec .decRdLenZero (decAt .readLen 0xFF 0x00 zeroPayload 0 0xF3 [])) (fun t => t.dec) =
      some (decAt .readChecksum 0xFF 0x00 zeroPayload 0 0xD7 []).dec := by decide

/-- 4.3, edge 4. -/
theorem test_dec_rd_len_nz :
    look (exec (.decRdLenNz 0x03) (decAt .readLen 0x10 0x00 zeroPayload 0 0x70 [])) (fun t => t.dec) =
      some (decAt .readData 0x10 0x03 zeroPayload 0 0x5E []).dec := by decide

/-- V-T2, V-T3. -/
theorem test_dec_rd_len_bad :
    look (exec (.decRdLenBad 0x09) (decAt .readLen 0x00 0x00 zeroPayload 0 0x00 []))
        (fun t => (t.dec.decState, decErr t.dec.decErrR, t.dec.decCrc, t.dec.decLenR)) =
        some (.rejected, 2, 0x3F, 0x09) ∧
      look (exec (.decRdLenBad 0xFF) (decAt .readLen 0x00 0x00 zeroPayload 0 0x00 []))
        (fun t => (decErr t.dec.decErrR, t.dec.decCrc)) = some (2, 0xF3) := by decide

/-- 4.3, edge 7. -/
theorem test_dec_rd_data :
    look (exec (.decRdData 0x33) (decAt .readData 0x10 0x03 { knownData with d2 := 0x00 } 2 0x76 [])) (fun t => t.dec) =
      some (decAt .readChecksum 0x10 0x03 knownData 3 0xDC []).dec := by decide

/-- V-H8. -/
theorem test_dec_rd_data_last :
    look (exec (.decRdData 0x99) (decAt .readData 0x00 0x08 knownData 7 0x00 []))
      (fun t => (t.dec.decState, t.dec.decIdx, t.dec.decDataR)) =
      some (.readChecksum, 8, { knownData with d7 := 0x99 }) := by decide

/-- 4.3, edge 8. -/
theorem test_dec_crc_ok :
    look (exec (.decCrcOk 0xDC) (decAt .readChecksum 0x10 0x03 knownData 3 0xDC [])) (fun t => (t.dec, attemptResult t.dec)) =
      some ({ (decAt .accepted 0x10 0x03 knownData 3 0xDC []).dec with decCrcRx := 0xDC },
        some (.ok (.mk 0x10 [0x11, 0x22, 0x33]))) := by decide

/-- V-T4: the source's misprinted checksum is rejected. -/
theorem test_dec_crc_bad :
    look (exec (.decCrcBad 0x4F) (decAt .readChecksum 0x10 0x03 knownData 3 0xDC []))
      (fun t => (t.dec.decState, decErr t.dec.decErrR, t.dec.decCrc, t.dec.decCrcRx)) =
      some (.rejected, 3, 0xDC, 0x4F) := by decide

/-- V-H1. -/
theorem test_dec_wait :
    look (exec .decWait (decAt .readLen 0x42 0x00 zeroPayload 0 0xC9 [])) (fun t => t.dec) =
      some (decAt .readLen 0x42 0x00 zeroPayload 0 0xC9 []).dec := by decide

/-- V-H5: the byte stays with the transport. -/
theorem test_dec_hold :
    look (step (withRxQueue [0xAA] (atEdge Edge.offer State.reset))) (fun t => (t.dec, t.env.rxQueue)) =
      some (State.reset.dec, [0xAA]) := by decide

/-! ### One frame each, run as the first instruction after reset -/

/-- What `step` leaves as the decoder's result when a table word is placed after reset. -/
def resultOfWord (nbits w : Nat) : Option (Option Result) :=
  look (step (State.reset.withFetchWord nbits w)) (fun t => attemptResult t.dec)

/-- V-E4. -/
theorem test_frame_l0 : resultOfWord 32 0xAA420071 = some (some (.ok (.mk 0x42 []))) := by decide

/-- V-E5. -/
theorem test_frame_l1 : resultOfWord 40 0xAA4201A02C = some (some (.ok (.mk 0x42 [0xA0]))) := by decide

/-- V-E6. -/
theorem test_frame_l2 : resultOfWord 48 0xAA4202A0A117 = some (some (.ok (.mk 0x42 [0xA0, 0xA1]))) := by decide

/-- V-E1, and V-D7: the source's misprinted checksum. -/
theorem test_frame_l3 :
    resultOfWord 56 0xAA1003112233DC = some (some (.ok (.mk 0x10 [0x11, 0x22, 0x33]))) ∧
      resultOfWord 56 0xAA10031122334F = some (some (.err .checksumMismatch)) := by decide

/-- V-E8. -/
theorem test_frame_l4 :
    resultOfWord 64 0xAA4204A0A1A2A325 = some (some (.ok (.mk 0x42 [0xA0, 0xA1, 0xA2, 0xA3]))) := by decide

/-- V-E9. -/
theorem test_frame_l5 :
    resultOfWord 72 0xAA4205A0A1A2A3A4A7 = some (some (.ok (.mk 0x42 [0xA0, 0xA1, 0xA2, 0xA3, 0xA4]))) := by decide

/-- V-E10. -/
theorem test_frame_l6 :
    resultOfWord 80 0xAA4206A0A1A2A3A4A568 =
      some (some (.ok (.mk 0x42 [0xA0, 0xA1, 0xA2, 0xA3, 0xA4, 0xA5]))) := by decide

/-- V-E11. -/
theorem test_frame_l7 :
    resultOfWord 88 0xAA4207A0A1A2A3A4A5A677 =
      some (some (.ok (.mk 0x42 [0xA0, 0xA1, 0xA2, 0xA3, 0xA4, 0xA5, 0xA6]))) := by decide

/-- V-E3. -/
theorem test_frame_l8 :
    resultOfWord 96 0xAA00080102030405060708FF =
      some (some (.ok (.mk 0x00 [0x01, 0x02, 0x03, 0x04, 0x05, 0x06, 0x07, 0x08]))) := by decide

/-- P1, edge 5: the two units move the byte `0x11` at one edge, in loopback. -/
theorem test_step_loopback :
    look (step (atEdge { Edge.quiet with loopback := true } { (encAt .encData 0 0x5E) with
        dec := (decAt .readData 0x10 0x03 zeroPayload 0 0x5E []).dec }))
      (fun t => (t.enc.encIdx, t.enc.encCrc, t.dec.decIdx, t.dec.decCrc)) = some (1, 0xEA, 1, 0xEA) := by decide

/-- V-R4: a byte the transport counts at a reset edge has not fired. -/
theorem test_step_reset_edge :
    look (step (atEdge { Edge.reset with txReady := true, resetTakes := true } (encAt .encData 1 0xEA)))
      (fun t => (t.enc.encState, t.env.txLine, t.env.txSent, t.hist.txFired)) = some (.encIdle, [0x22], [], []) := by
  decide

/-! ### The host script -/

/-- The state with the script about to be at `p`. -/
def atScript (p : List Stmt) (s : State) : State := withStims (script p) s

/-- P5: one more byte after the nine, and what `crc.get` reads. -/
theorem test_script_crc :
    look (step (atScript [.crcPut 0xF4] { State.reset with crcu := { crcQ := 0xF4 } })) (fun t => t.crcu.crcQ) =
        some 0x00 ∧
      look (step (atScript [.crcGet] { State.reset with crcu := { crcQ := 0xF4 } })) (fun t => t.env.answers) =
        some [.value 0xF4] := by decide

/-- P5: the expansion of `crc.of`. -/
theorem test_script_crc_of : crcOf [0x31, 0x32] = [.crcClr, .crcPut 0x31, .crcPut 0x32, .crcGet] := by decide

/-- V-R2: `reset` resets, and the bytes with the transport stay (70_reset_and_hazards.md R233). -/
theorem test_script_reset :
    look (step (atScript [.reset] (withRxQueue [0x99] (encAt .encData 1 0xEA))))
      (fun t => (t.enc, t.env.rxQueue, t.env.stims)) = some (Enc.reset, [0x99], []) := by decide

/-- P1 and V-E21: the entries beyond those listed are `0x00`; the host then waits. -/
theorem test_script_enc_send :
    look (step (atScript [.encSend 0x10 0x03 [0x11, 0x22, 0x33]] State.reset)) (fun t => (t.enc, t.env.stims)) =
        some ((encAt .encStart 0 0x00).enc, [.stmt .encAwait]) ∧
      look (step (atScript [.encSend 0x99 0x01 [0x99]] (encAt .encData 0 0x5E))) (fun t => (t.enc, t.env.stims)) =
        some ((encAt .encData 1 0xEA).enc, script [.encSend 0x99 0x01 [0x99]]) := by decide

/-- P6: an illegal frame sets the flag, and the wait ends at once. -/
theorem test_script_enc_send_illegal :
    look (step (atScript [.encSend 0x77 0x09 [1, 2, 3, 4, 5, 6, 7, 8]] State.reset)) (fun t => (t.enc, t.env.stims)) =
        some ({ Enc.reset with encFault := true }, [.stmt .encAwait]) ∧
      look (step (atScript [.encAwait] (raiseEncLengthFault State.reset))) (fun t => t.env.stims) = some [] := by decide

/-- P6: `tx.expect` looks at the bytes fired since the last one; V-R4: a byte counted at a reset edge is none of them. -/
theorem test_script_tx_expect :
    look (step (atScript [.txExpect [0x01, 0x00]]
        { State.reset with
          env := { Env.empty with txLine := [0xAA, 0x01, 0x00, 0x22], txSent := [0xAA, 0x01, 0x00], txSeen := 1 } }))
      (fun t => (t.env.answers, t.env.txSeen)) = some ([.sent true], 3) := by decide

/-- P2: the bytes fed, and an attempt begun, which waits; V-H1: one in flight is not begun again. -/
theorem test_script_dec_try :
    look (step (atScript [.rxFeed [0xAA]] (withRxQueue [0x55] State.reset))) (fun t => t.env.rxQueue) =
        some [0x55, 0xAA] ∧
      look (step (atScript [.decTry] (withRxQueue [0x55] State.reset)))
        (fun t => (t.dec.decState, t.env.rxQueue, t.env.stims)) = some (.awaitStart, [0x55], [.stmt .decAwait]) ∧
      look (step (atScript [.decTry] (decAt .readLen 0x42 0x00 zeroPayload 0 0xC9 [])))
        (fun t => (t.dec.decState, t.env.stims)) = some (.readLen, [.stmt .decTry]) := by decide

/-- P2: the attempt takes a byte and waits; once it has ended its result is read. -/
theorem test_script_dec_await :
    look (step (atScript [.decAwait] (withRxQueue [0x55] (decAt .awaitStart 0x00 0x00 zeroPayload 0 0x00 []))))
        (fun t => (t.dec.decState, t.env.rxQueue, t.env.stims)) = some (.rejected, [], [.stmt .decAwait]) ∧
      look (step (atScript [.decAwait] { State.reset with
          dec := { Dec.reset with decState := .rejected, decErrR := some .badStartByte } }))
        (fun t => (t.env.answers, t.env.stims)) = some ([.result (.err .badStartByte)], []) := by decide

/-- A transport that neither accepts nor offers, for good. -/
def stalled : Pace := { Pace.ready with txReady := false, rxOffer := false }

/-- R241 (70_reset_and_hazards.md): at a pace that stalls for good each wait goes on; bytes may arrive meanwhile. -/
theorem test_script_stall :
    look (step (atScript [.encAwait] { (encAt .encData 1 0xEA) with
        env := { Env.empty with paceAfter := .always stalled } }))
      (fun t => (t.enc.encIdx, t.env.paceAfter, t.env.stims)) = some (1, .always stalled, [.stmt .encAwait]) ∧
      look (step (atScript [.decAwait] { (decAt .awaitStart 0x00 0x00 zeroPayload 0 0x00 []) with
          env := { Env.empty with pace := [{ stalled with arrives := [0xAA] }] } }))
        (fun t => (t.dec.decState, t.env.rxQueue, t.env.pace, t.env.stims)) =
        some (.awaitStart, [0xAA], [], [.stmt .decAwait]) := by decide

/-- P3: `dec.all` tries again while bytes remain, and ends when none do. -/
theorem test_script_dec_all :
    look (step (atScript [.decAll] (withRxQueue [0xA0] State.reset))) (fun t => t.env.stims) =
        some (script [.decTry, .decAll]) ∧
      look (step (atScript [.decAll] State.reset)) (fun t => t.env.stims) = some [] := by decide

/-- P1, edge 1: both commands at one edge of a loopback; edge 2: `AA` crosses. -/
theorem test_script_loopback :
    look (step (atScript [.loopback] State.reset)) (fun t => t.env.wired) = some true ∧
      look (step (atScript [.sendAndTry 0x10 0x03 [0x11, 0x22, 0x33]] State.reset))
        (fun t => (t.enc, t.dec.decState, t.env.stims)) =
        some ((encAt .encStart 0 0x00).enc, .awaitStart, script [.encAwait, .decAwait]) ∧
      look (step (atScript [.encAwait] { (encAt .encStart 0 0x00) with
          dec := (decAt .awaitStart 0x00 0x00 zeroPayload 0 0x00 []).dec, env := { Env.empty with
            stims := [.stmt .encAwait], wired := true } }))
        (fun t => (t.enc.encState, t.dec.decState)) = some (.encId, .readId) := by decide

/-! ### Witnesses: the hypotheses of each statement can be met, for each of its clauses -/

/-- The encoder in mid-frame with the record of it: `AA 10 03 11` have fired (3.2, after edge 5). -/
def midEnc : State :=
  { encAt .encData 1 0xEA with
    hist := { History.empty with loaded := [.mk 0x10 [0x11, 0x22, 0x33]], txFired := [0xAA, 0x10, 0x03, 0x11] } }

/-- The decoder in mid-attempt with the record of it: `AA 10 03 11` have been taken (4.3, after edge 5). -/
def midDec : State :=
  decAt .readData 0x10 0x03 { zeroPayload with d0 := 0x11 } 1 0xEA [0xAA, 0x10, 0x03, 0x11]

/-- One ended attempt after reset, with its bytes and its result on record. -/
def ended (d : Dec) (w : List Byte) (r : Result) : State :=
  { State.reset with dec := d, hist := { History.empty with rxTaken := w, rxAll := w, results := [r] } }

/-- V-T6: `AA FF 00 D7` accepted. -/
def acceptedState : State :=
  ended { Dec.reset with decState := .accepted, decIdR := 0xFF, decCrc := 0xD7, decCrcRx := 0xD7 }
    [0xAA, 0xFF, 0x00, 0xD7] (.ok (.mk 0xFF []))

/-- V-T1: `55` rejected. -/
def badStartState : State :=
  ended { Dec.reset with decState := .rejected, decErrR := some .badStartByte } [0x55] (.err .badStartByte)

/-- V-T2: `AA 00 09` rejected. -/
def badLengthState : State :=
  ended { Dec.reset with decState := .rejected, decErrR := some .lengthOutOfRange, decLenR := 0x09, decCrc := 0x3F }
    [0xAA, 0x00, 0x09] (.err .lengthOutOfRange)

/-- `AA FF 00 D6` rejected (V-D9 with one bit of the checksum byte changed, S9). -/
def badCrcState : State :=
  ended { Dec.reset with decState := .rejected, decErrR := some .checksumMismatch, decIdR := 0xFF, decCrc := 0xD7,
                         decCrcRx := 0xD6 }
    [0xAA, 0xFF, 0x00, 0xD6] (.err .checksumMismatch)

theorem zeroFrom_zeroPayload (n : Nat) : zeroFrom zeroPayload n := by
  have h : ∀ i : Index, i.toNat < 8 → zeroPayload.get i = 0x00 := by decide
  exact fun i _ hi => h i hi

theorem encTrace_reset (d : Dec) (e : Env) (h : History) (hf : h.txFired = []) (hl : h.loaded = []) :
    EncTrace { State.reset with dec := d, env := e, hist := h } := by
  show (if EncState.encIdle = .encIdle then h.txFired = h.loaded.flatMap Frame.encode else _)
  rw [if_pos rfl, hf, hl]
  rfl

theorem encInv_reset : EncInv Enc.reset := ⟨by decide, by decide, trivial⟩

theorem inv_ended {d : Dec} {w : List Byte} {r : Result} (hd : DecInv d) (ht : DecTrace (ended d w r))
    (hr : d.decState.reading = false) (hw : ∀ t, decode (w ++ t) = .done r w.length) : Inv (ended d w r) where
  enc := encInv_reset
  dec := hd
  crcFed := rfl
  fired := encTrace_reset d _ _ rfl rfl
  taken := ht
  results := by
    show (if d.decState.reading then _ else Consumed w [r])
    rw [if_neg (by rw [hr]; decide)]
    exact consumed_nil.append hw

theorem inv_acceptedState : Inv acceptedState :=
  inv_ended ⟨by decide, rfl, by decide, ⟨by decide, by decide, zeroFrom_zeroPayload _⟩, by decide⟩ rfl rfl
    fun _ => rfl

theorem inv_badStartState : Inv badStartState :=
  inv_ended ⟨by decide, by decide, by decide, by decide⟩ ⟨_, rfl, rfl⟩ rfl fun _ => rfl

theorem inv_badLengthState : Inv badLengthState :=
  inv_ended ⟨by decide, by decide, by decide, by decide⟩ ⟨_, rfl, rfl⟩ rfl fun _ => rfl

theorem inv_badCrcState : Inv badCrcState :=
  inv_ended ⟨by decide, by decide, by decide, by decide⟩ ⟨_, rfl, rfl⟩ rfl fun _ => rfl

theorem encInv_midEnc : EncInv midEnc.enc := ⟨by decide, by decide, by decide, by decide⟩

theorem decInv_midDec : DecInv midDec.dec := by
  have h : ∀ i : Index, 1 ≤ i.toNat → i.toNat < 8 → midDec.dec.decDataR.get i = 0x00 := by decide
  exact ⟨by decide, rfl, by decide, by decide, by decide, h⟩

theorem decTrace_midDec : DecTrace midDec := rfl

theorem resultsTrace_midDec : ResultsTrace midDec := by
  show (if DecState.readData.reading then _ else _)
  rw [if_pos (by decide)]
  exact ⟨[], rfl, consumed_nil⟩

theorem encTrace_midEnc : EncTrace midEnc := by
  show (if EncState.encData = .encIdle then _ else _)
  rw [if_neg (by decide)]
  exact ⟨[], by decide, by decide⟩

/-- The known frame (95_test_vectors.md S8). -/
def known : Frame := .mk 0x10 [0x11, 0x22, 0x33]

/-- A frame of the greatest length (V-E3). -/
def maximal : Frame := .mk 0x00 [0x01, 0x02, 0x03, 0x04, 0x05, 0x06, 0x07, 0x08]

/-- Clause L3: a linear function with the eight values is met, by `crc8T` itself. -/
theorem witness_CrcUpdateIsLinearAndBijective :
    ∃ f : Byte → Byte, (∀ x y : Byte, f (x ^^^ y) = f x ^^^ f y) ∧ f 0x01 = 0x07 ∧ f 0x02 = 0x0E ∧ f 0x04 = 0x1C ∧
      f 0x08 = 0x38 ∧ f 0x10 = 0x70 ∧ f 0x20 = 0xE0 ∧ f 0x40 = 0xC7 ∧ f 0x80 = 0x89 := by
  refine ⟨crc8T, fun x y => ?_, by decide, by decide, by decide, by decide, by decide, by decide, by decide, by decide⟩
  have h0 : ∀ b : Byte, (0x00 : Byte) ^^^ b = b := fun b => BitVec.zero_xor
  simp only [crc8T, crc8Update, h0, crc8Bit_xor]

theorem witness_CrcSequenceLaws :
    (0x01 : Byte) ≠ 0x02 ∧ ([0x10, 0x03] : List Byte).length = ([0xFF, 0x00] : List Byte).length := by decide

theorem witness_EncodeIsInjectivePositionalAndValid :
    known.encode = known.encode ∧ 2 < known.data.length ∧ 7 < maximal.data.length ∧ (3 : Nat) ≤ 8 ∧
      ∀ i : Index, i.toNat < 3 → knownData.get i = { knownData with d3 := 0x99 }.get i := by decide

theorem witness_ValidFramesAreEncodingsAndPrefixFree :
    validFrame known.encode = true ∧ validFrame (known.encode ++ []) = true := by decide

theorem witness_DecodeHasNineCases :
    (0xAB : Byte) ≠ 0xAA ∧ 8 < (0x09 : Byte).toNat ∧ (0x08 : Byte).toNat ≤ 8 ∧
      (maximal.data.take 7).length < (0x08 : Byte).toNat ∧ maximal.data.length = (0x08 : Byte).toNat ∧
      ([] : List Byte).length = (0x00 : Byte).toNat := by decide

theorem witness_DecodeConsumesExactlyItsFrame :
    decode known.encode = .done (.ok known) 7 ∧ decode [0x55] = .done (.err .badStartByte) 1 ∧
      decode [0xAA, 0x00, 0x09] = .done (.err .lengthOutOfRange) 3 ∧
      decode [0xAA, 0xFF, 0x00, 0xD6] = .done (.err .checksumMismatch) 4 ∧ (0xAB : Byte) ≠ 0xAA ∧
      8 < (0x09 : Byte).toNat ∧ decode [] = .pending .awaitStart 0 ∧ decode [0xAA] = .pending .readId 0 ∧
      decode [0xAA, 0x10] = .pending .readLen 0 ∧ decode [0xAA, 0x10, 0x03, 0x11] = .pending .readData 1 ∧
      decode [0xAA, 0xFF, 0x00] = .pending .readChecksum 0 := by decide

theorem witness_RoundTripAndSingleByteCorruption :
    (0x4F : Byte) ≠ known.checksum ∧ 7 < maximal.data.length ∧ maximal.data[7]? ≠ some 0x09 ∧
      2 < known.data.length ∧ known.data[2]? ≠ some 0x32 ∧ (0x11 : Byte) ≠ known.id ∧ (0xAB : Byte) ≠ 0xAA ∧
      8 < (0x09 : Byte).toNat := by decide

theorem witness_SelectionIsExhaustiveAndExclusive :
    Edge.reset.host.rst = true ∧ Edge.quiet.host.rst = false := by decide

/-- For an operation of each unit and RST. -/
theorem witness_DrivingSelectsTheOperation :
    (∃ p, Instr.rst.applies .encData .readLen 0x00 p = true) ∧
      (∃ p, (Instr.crcUpd 0x10).applies .encData .readLen 0x00 p = true) ∧
      (∃ p, (Instr.encLoad 0x10 0x08 knownData).applies .encIdle .readLen 0x00 p = true) ∧
      ∃ p, (Instr.decCrcOk 0xDC).applies .encData .readChecksum 0xDC p = true :=
  ⟨⟨Instr.rst.drive, by decide⟩, ⟨(Instr.crcUpd 0x10).drive, by decide⟩,
    ⟨(Instr.encLoad 0x10 0x08 knownData).drive, by decide⟩, ⟨(Instr.decCrcOk 0xDC).drive, by decide⟩⟩

theorem witness_WireRoundTrip :
    (Instr.frameL0 0xFF 0xD7).isFrame = true ∧
      (Instr.frameL8 0x00 0x01 0x02 0x03 0x04 0x05 0x06 0x07 0x08 0x00).isFrame = true := by decide

theorem witness_WireReadingIsSound :
    decodeWire (known.encode ++ [0x99]) = .frame (.frameL3 0x10 0x11 0x22 0x33 0xDC) [0x99] := by decide

theorem witness_WellFormedFramesAreTheAcceptedOnes :
    (Instr.frameL3 0x10 0x11 0x22 0x33 0xDC).frameParts = some (known, 0xDC) ∧
      (Instr.frameL0 0xFF 0xD6).frameParts = some (.mk 0xFF [], 0xD6) := by decide

theorem witness_StepRunsTheSelectedOperations :
    ((atEdge Edge.reset midEnc).env.stims = [.edge Edge.reset] ∧ Edge.reset.host.rst = true) ∧
      (atEdge Edge.accept midEnc).env.stims = [.edge Edge.accept] ∧ Edge.accept.host.rst = false := by decide

/-- A state in which the transport has `w` and the environment gives it to the decoder. -/
def receiving (w : List Byte) (s : State) : State := withStims [.recv] (withRxQueue w s)

/-- A state whose environment goes on for ever. -/
def goingOn (s : State) : State := { s with env := { s.env with after := .free 7 } }

theorem witness_StepRunsTheFetchedFrame :
    ((receiving known.encode midEnc).env.stims = [.recv] ∧
        decodeWire (receiving known.encode midEnc).env.rxQueue = .frame (.frameL3 0x10 0x11 0x22 0x33 0xDC) []) ∧
      ((receiving [0x55] midEnc).env.stims = [.recv] ∧
        decodeWire (receiving [0x55] midEnc).env.rxQueue = .reject .badStartByte) ∧
      (withStims [.feed [0xAA]] midEnc).env.stims = [.feed [0xAA]] ∧
      (midEnc.env.stims = [] ∧ midEnc.env.after = .quiet) ∧
      (goingOn midEnc).env.stims = [] ∧ (goingOn midEnc).env.after = .free 7 := by decide

theorem witness_FrameIsItsEdges :
    (Instr.frameL3 0x10 0x11 0x22 0x33 0xDC).isFrame = true ∧
      (withRxQueue (known.encode ++ [0x99]) midDec).env.rxQueue =
        encode (.frameL3 0x10 0x11 0x22 0x33 0xDC) ++ [0x99] := by decide

theorem witness_ResetValues : (0 : Index).toNat < 8 ∧ (7 : Index).toNat < 8 := by decide

theorem witness_RstResetsEveryRegisterAndOverrides :
    (atEdge Edge.reset midEnc).env.stims = [.edge Edge.reset] ∧ Edge.reset.host.rst = true ∧
      Edge.reset.resetGives = false ∧ Edge.reset.resetTakes = false := by decide

theorem witness_CrcClrAndHold :
    { HostPorts.quiet with crcClr := true, crcEn := true }.crcClr = true ∧
      ({ HostPorts.quiet with crcEn := true }.crcClr = false ∧ { HostPorts.quiet with crcEn := true }.crcEn = true) ∧
      HostPorts.quiet.crcClr = false ∧ HostPorts.quiet.crcEn = false := by decide

theorem witness_CrcUpdFoldsAndRefinesCrc8 :
    ({ HostPorts.quiet with crcEn := true }.crcClr = false ∧ { HostPorts.quiet with crcEn := true }.crcEn = true) ∧
      (∃ t, exec (.crcUpd midEnc.crcu.crcQ) midEnc = .next t) ∧ (Instr.crcClr = .crcClr ∨ Instr.crcClr = .rst) ∧
      (Instr.rst = .crcClr ∨ Instr.rst = .rst) :=
  ⟨by decide, ⟨_, rfl⟩, by decide, by decide⟩

/-- The ports of an offered frame. -/
def offering (len : Byte) : Ports := { Ports.quiet with host := { HostPorts.quiet with encValid := true, encLen := len } }

theorem witness_EncTakesALegalFrameAndDropsAnIllegalOne :
    ((offering 0x08).host.encValid = true ∧ (offering 0x08).host.encLen.toNat ≤ 8) ∧
      ((offering 0x09).host.encValid = true ∧ 8 < (offering 0x09).host.encLen.toNat) ∧
      (encAt .encIdle 3 0xDC).enc.encState = .encIdle ∧ (0x00 : Byte).toNat ≤ 8 ∧ (0x08 : Byte).toNat ≤ 8 ∧
      8 < (0x09 : Byte).toNat ∧ 8 < (0xFF : Byte).toNat := by decide

theorem witness_EncSendsItsFiveFields :
    { Ports.quiet with txReady := true }.txReady = true ∧ (encAt .encStart 0 0x00).enc.encState = .encStart ∧
      (encAt .encId 0 0x00).enc.encState = .encId ∧ (encAt .encLen 0 0x70).enc.encState = .encLen ∧
      (encAt .encData 2 0x76).enc.encState = .encData ∧ (encAt .encCrc 3 0xDC).enc.encState = .encCrc := by decide

theorem witness_DecStartBeginsAFreshAttempt :
    (DecState.decIdle.reading = false ∧ DecState.accepted.reading = false ∧ DecState.rejected.reading = false ∧
        (Instr.drive .decStart).host.decStart = true) ∧
      badCrcState.dec.decState.reading = false ∧ DecState.readLen.reading = true ∧
      midDec.dec.decState.reading = true := by decide

/-- A fresh attempt (4.3, after edge 1). -/
def fresh : State := decAt .awaitStart 0x00 0x00 zeroPayload 0 0x00 []

theorem witness_DecStartByteDecides :
    (Instr.drive .decSofOk).rxValid = true ∧ fresh.dec.decState = .awaitStart ∧ (0xAB : Byte) ≠ 0xAA := by decide

theorem witness_DecRdLenByClass :
    (Instr.drive .decRdLenZero).rxValid = true ∧
      (decAt .readLen 0x10 0x00 zeroPayload 0 0x70 [0xAA, 0x10]).dec.decState = .readLen ∧
      (1 ≤ (0x01 : Byte).toNat ∧ (0x01 : Byte).toNat ≤ 8) ∧ (1 ≤ (0x08 : Byte).toNat ∧ (0x08 : Byte).toNat ≤ 8) ∧
      8 < (0x09 : Byte).toNat := by decide

theorem witness_DecIdAndDataBytesAreStored :
    (Instr.drive (.decRdData 0x22)).rxValid = true ∧
      (decAt .readId 0x00 0x00 zeroPayload 0 0x00 [0xAA]).dec.decState = .readId ∧ midDec.dec.decState = .readData ∧
      midDec.dec.decIdx.toNat < 8 ∧ (0 : Index) ≠ midDec.dec.decIdx ∧ (15 : Index) ≠ midDec.dec.decIdx := by decide

/-- 4.3, after edge 7. -/
def atChecksum : State :=
  decAt .readChecksum 0x10 0x03 knownData 3 0xDC [0xAA, 0x10, 0x03, 0x11, 0x22, 0x33]

theorem witness_DecCrcByteDecides :
    (Instr.drive (.decCrcOk 0xDC)).rxValid = true ∧ atChecksum.dec.decState = .readChecksum ∧
      0xDC = atChecksum.dec.decCrc ∧ 0x4F ≠ atChecksum.dec.decCrc := by decide

theorem witness_WaitingOperationsChangeNothing :
    (EncState.encCrc ≠ .encIdle ∧ Ports.quiet.txReady = false) ∧ Ports.quiet.host.encValid = false ∧
      (DecState.readData.reading = true ∧ Ports.quiet.rxValid = false) ∧
      (DecState.accepted.reading = false ∧ Ports.quiet.host.decStart = false) ∧
      (encAt .encStart 0 0x00).enc.encState ≠ .encIdle ∧ midDec.dec.decState.reading = true ∧
      acceptedState.dec.decState.reading = false := by decide

/-- A fresh attempt, with a frame whose checksum matches and one whose does not; and no attempt. -/
theorem witness_FrameIsDecodedInAnAttemptAndStaysOutsideOne :
    (Instr.frameL3 0x10 0x11 0x22 0x33 0xDC).frameParts = some (known, 0xDC) ∧ fresh.dec = (startAttempt fresh).dec ∧
      (Instr.frameL3 0x10 0x11 0x22 0x33 0xDC).wf = true ∧
      (Instr.frameL3 0x10 0x11 0x22 0x33 0x4F).frameParts = some (known, 0x4F) ∧
      (Instr.frameL3 0x10 0x11 0x22 0x33 0x4F).wf = false ∧
      (Instr.frameL0 0xFF 0xD7).isFrame = true ∧ State.reset.dec.decState.reading = false := by decide

/-- DEC.RD_ID in `DecIdle`, and ENC.TX_DATA in `EncIdle`. -/
theorem witness_OperationsDoNothingOffTheirCondition :
    (Instr.decRdId 0x10).isFrame = false ∧
      (∀ p : Ports, (Instr.decRdId 0x10).applies .encIdle .decIdle 0x00 p = false) ∧ Instr.encTxData.isFrame = false ∧
      ∀ p : Ports, Instr.encTxData.applies .encIdle .decIdle 0x00 p = false := by
  refine ⟨rfl, fun p => ?_, rfl, fun p => ?_⟩
  · show (!p.host.rst && false && p.rxValid && p.rxData == 0x10) = false
    rw [Bool.and_false]; rfl
  · show (!p.host.rst && false && p.txReady) = false
    rw [Bool.and_false]; rfl

/-- For an operation of each unit, and for a frame. -/
theorem witness_UnitsShareNoRegister :
    ((∃ t, exec (.crcUpd 0x10) midEnc = .next t) ∧ (Instr.crcUpd 0x10).unit = .crcu) ∧
      ((∃ t, exec .encTxData midEnc = .next t) ∧ Instr.encTxData.unit = .enc ∧ Instr.encTxData.isFrame = false) ∧
      (∃ t, exec (.frameL0 0xFF 0xD7) midDec = .next t) ∧ (Instr.frameL0 0xFF 0xD7).unit = .dec :=
  ⟨⟨⟨_, rfl⟩, rfl⟩, ⟨⟨_, rfl⟩, rfl, rfl⟩, ⟨_, rfl⟩, rfl⟩

theorem witness_UnitOrderIsIrrelevant :
    Instr.encTxData.unit ≠ (Instr.decRdData 0x11).unit ∧ Instr.encTxData.unit ≠ .all ∧
      (Instr.decRdData 0x11).unit ≠ .all := by decide

theorem witness_EncFaultIsStickyUntilReset :
    (∃ t, exec (.encLoadFault 0x09) State.reset = .next t) ∧
      ∃ t, exec (.encLoad 0x01 0x00 zeroPayload) (raiseEncLengthFault State.reset) = .next t := ⟨⟨_, rfl⟩, ⟨_, rfl⟩⟩

/-- A failing operation that brings `Rejected`; DEC.START, which clears the code. -/
theorem witness_OnlyThreeOperationsRaise :
    ((Instr.decSofBad 0x55).isFrame = false ∧
        ∃ t, exec (.decSofBad 0x55) fresh = .next t ∧ t.dec.decState = .rejected ∧ fresh.dec.decState ≠ .rejected ∧
          t.dec.decErrR ≠ fresh.dec.decErrR) ∧
      Instr.decStart.isFrame = false ∧
        ∃ t, exec .decStart badCrcState = .next t ∧ t.dec.decErrR ≠ badCrcState.dec.decErrR :=
  ⟨⟨rfl, _, rfl, by decide, by decide, by decide⟩, rfl, _, rfl, by decide⟩

theorem witness_OnlyStartOrResetLeavesATerminalState :
    (decDone acceptedState.dec.decState = true ∧ ∃ t, exec (.frameL0 0xFF 0xD7) acceptedState = .next t) ∧
      decDone badCrcState.dec.decState = true ∧ ∃ t, exec .decStart badCrcState = .next t :=
  ⟨⟨rfl, _, rfl⟩, rfl, _, rfl⟩

theorem witness_UnitsMoveForward :
    (DecInv midDec.dec ∧ midDec.dec.decState.reading = true ∧
        ∃ t, exec (selectDecByte midDec.dec.decState midDec.dec.decCrc 0x22) midDec = .next t) ∧
      EncInv midEnc.enc ∧ midEnc.enc.encState ≠ .encIdle ∧ { Ports.quiet with txReady := true }.txReady = true ∧
        ∃ t, exec (selectEnc midEnc.enc.encState { Ports.quiet with txReady := true }) midEnc = .next t :=
  ⟨⟨decInv_midDec, rfl, _, rfl⟩, encInv_midEnc, by decide, rfl, _, rfl⟩

theorem witness_OfferedByteIsStable :
    (atEdge Edge.quiet midEnc).env.stims = [.edge Edge.quiet] ∧ Edge.quiet.host.rst = false ∧
      txValid (atEdge Edge.quiet midEnc).enc.encState = true ∧
      txFire (edgePorts Edge.quiet (atEdge Edge.quiet midEnc)) (atEdge Edge.quiet midEnc) = false ∧
      ∃ t, step (atEdge Edge.quiet midEnc) = .next t := ⟨rfl, rfl, rfl, rfl, _, rfl⟩

/-- V-G1: another frame on the port while one is in flight. -/
theorem witness_FramePortIsReadOnlyAtTheLoad :
    midEnc.enc.encState ≠ .encIdle ∧
      Edge.load 0x99 0x09 knownData =
        { Edge.quiet with host := { Edge.quiet.host with encValid := true, encId := 0x99, encLen := 0x09
                                                         encDataIn := knownData } } := by decide

theorem witness_BytesMoveOnceInOrder :
    (atEdge Edge.offer (withRxQueue [0x22] midDec)).env.stims = [.edge Edge.offer] ∧ Edge.offer.host.rst = false ∧
      Edge.offer.loopback = false ∧ ∃ t, step (atEdge Edge.offer (withRxQueue [0x22] midDec)) = .next t :=
  ⟨rfl, rfl, rfl, _, rfl⟩

/-- The shortest legal frame and one of the greatest length, at the first edge of a run from reset. -/
theorem witness_AnUnfaultedRunLosesNoFrame :
    ∀ len : Byte, len = 0x00 ∨ len = 0x08 →
      let v := { Env.empty with stims := [.edge (Edge.load 0x01 len zeroPayload)] }
      Host.Core.run Sys2Proof.core 0 { State.reset with env := v } = .next { State.reset with env := v } ∧
        ¬ RunFaulted 1 { State.reset with env := v } ∧
        step { State.reset with env := v } = edgeStep (Edge.load 0x01 len zeroPayload) { State.reset with env := Env.empty } ∧
        encFire (edgePorts (Edge.load 0x01 len zeroPayload) { State.reset with env := Env.empty })
          { State.reset with env := v } = true := by
  rintro len (rfl | rfl) <;> refine ⟨rfl, ?_, rfl, rfl⟩ <;> rintro ⟨j, hj, t, ht, hf⟩ <;>
    (match j, hj, ht with
      | 0, _, ht => injection ht with ht; subst ht; exact Bool.noConfusion (show false = true from hf)
      | 1, _, ht => injection ht with ht; subst ht; exact Bool.noConfusion (show false = true from hf))

/-- A statement that goes on, one that waits, and one that reads, for each kind of condition. -/
theorem witness_ScriptStatementsDriveTheirPorts :
    ((0 : Index).toNat < 8 ∧ (7 : Index).toNat < 8) ∧
      ((atScript [.encSend 0x10 0x08 [0x11]] State.reset).env.stims = [.stmt (.encSend 0x10 0x08 [0x11])] ∧
        State.reset.enc.encState = .encIdle ∧ (0x08 : Byte).toNat ≤ 8 ∧ ¬ (0x09 : Byte).toNat ≤ 8 ∧
        midEnc.enc.encState ≠ .encIdle) ∧
      (atScript [.decTry] midDec).dec.decState.reading = true ∧ badCrcState.dec.decState.reading = false ∧
      attemptResult badCrcState.dec = some (.err .checksumMismatch) ∧ attemptResult midDec.dec = none ∧
      bytesRemain (withRxQueue [0xA0] State.reset) = true ∧ bytesRemain State.reset = false := by decide

/-- In mid-run of a unit, a script about to wait for it at a pace that stalls for good. -/
def atStall (st : Stmt) (s : State) : State :=
  { atScript [st] s with env := { (atScript [st] s).env with paceAfter := .always stalled } }

/-- For each call: legal lengths 0 and 8 and illegal 9; a stream on which `decode` ends and one on which it waits; in mid-run
of the other unit; and each wait at a pace that stalls. -/
theorem witness_ScriptCallsGiveTheFunctionsResults :
    (atScript (crcOf [0x31] ++ [.crcGet]) midEnc).env.stims = script (crcOf [0x31]) ++ [.stmt .crcGet] ∧
      (atScript (withChecksum maximal) midEnc).env.stims = script (withChecksum maximal) ++ [] ∧
      ((atScript [.encSend 0x10 0x08 [0x11]] midDec).env.pace = [] ∧
        (atScript [.encSend 0x10 0x08 [0x11]] midDec).env.paceAfter = .always Pace.ready ∧
        (atScript [.encSend 0x10 0x08 [0x11]] midDec).env.wired = false ∧ midDec.enc.encState = .encIdle ∧
        (0x00 : Byte).toNat ≤ 8 ∧ (0x08 : Byte).toNat ≤ 8 ∧ 8 < (0x09 : Byte).toNat) ∧
      ((atScript [.decTry] (withRxQueue [0x55, 0xAA] midEnc)).env.pace = [] ∧
        (atScript [.decTry] (withRxQueue [0x55, 0xAA] midEnc)).env.paceAfter = .always Pace.ready ∧
        midEnc.dec.decState.reading = false ∧
        decode (atScript [.decTry] (withRxQueue [0x55, 0xAA] midEnc)).env.rxQueue = .done (.err .badStartByte) 1 ∧
        decode (atScript [.decTry] (withRxQueue [0xAA, 0x01] midEnc)).env.rxQueue = .pending .readLen 0 ∧
        decode (atScript [.decTry] (withRxQueue [] midEnc)).env.rxQueue = .pending .awaitStart 0) ∧
      (atScript [.decAll] (withRxQueue [0x55, 0xAA] midEnc)).env.stims = [.stmt .decAll] ∧
      (atScript [.decAll] (withRxQueue [0x55, 0xAA] midEnc)).env.wired = false ∧
      ((atStall .encAwait midEnc).env.pace = [] ∧ (atStall .encAwait midEnc).env.paceAfter = .always stalled ∧
        stalled.txReady = false ∧ (atStall .encAwait midEnc).env.wired = false ∧
        (atStall .encAwait midEnc).enc.encState ≠ .encIdle ∧
        (atStall .encAwait midEnc).env.stims = [.stmt .encAwait]) ∧
      (atStall .decAwait midDec).env.pace = [] ∧ (atStall .decAwait midDec).env.paceAfter = .always stalled ∧
      stalled.rxOffer = false ∧ (atStall .decAwait midDec).env.wired = false ∧
      (atStall .decAwait midDec).dec.decState.reading = true ∧
      (atStall .decAwait midDec).env.stims = [.stmt .decAwait] := by decide

theorem witness_TheRecordIsNeverRead : ∃ t, step midEnc = .next t := ⟨_, rfl⟩

theorem witness_StepKeepsTheEncoderInvariant :
    EncInv (atEdge Edge.accept midEnc).enc ∧ ∃ t, step (atEdge Edge.accept midEnc) = .next t :=
  ⟨encInv_midEnc, _, rfl⟩

theorem witness_StepKeepsTheDecoderInvariant :
    DecInv (receiving [0x22, 0x33, 0xDC] midDec).dec ∧ ∃ t, step (receiving [0x22, 0x33, 0xDC] midDec) = .next t :=
  ⟨decInv_midDec, _, rfl⟩

theorem witness_StepKeepsTheChecksumRefinement :
    CrcTrace (atEdge (Edge.crcPut 0x10) midEnc) ∧ ∃ t, step (atEdge (Edge.crcPut 0x10) midEnc) = .next t :=
  ⟨rfl, _, rfl⟩

theorem witness_StepKeepsTheEncoderRefinement :
    EncInv (atEdge Edge.accept midEnc).enc ∧ EncTrace (atEdge Edge.accept midEnc) ∧
      ∃ t, step (atEdge Edge.accept midEnc) = .next t := ⟨encInv_midEnc, encTrace_midEnc, _, rfl⟩

theorem witness_StepKeepsTheDecoderRefinement :
    DecInv (receiving [0x22, 0x33, 0xDC] midDec).dec ∧ DecTrace (receiving [0x22, 0x33, 0xDC] midDec) ∧
      ∃ t, step (receiving [0x22, 0x33, 0xDC] midDec) = .next t := ⟨decInv_midDec, decTrace_midDec, _, rfl⟩

theorem witness_StepKeepsTheResults :
    DecInv (receiving [0x22, 0x33, 0xDC] midDec).dec ∧ DecTrace (receiving [0x22, 0x33, 0xDC] midDec) ∧
      ResultsTrace (receiving [0x22, 0x33, 0xDC] midDec) ∧
      ∃ t, step (receiving [0x22, 0x33, 0xDC] midDec) = .next t :=
  ⟨decInv_midDec, decTrace_midDec, resultsTrace_midDec, _, rfl⟩

/-- A state for each clause. -/
theorem witness_InvariantSaysWhereAnAttemptStands :
    (Inv acceptedState ∧ acceptedState.dec.decState = .accepted) ∧
      (Inv badStartState ∧ badStartState.dec.decState = .rejected ∧
        badStartState.dec.decErrR = some .badStartByte) ∧
      (Inv badLengthState ∧ badLengthState.dec.decState = .rejected ∧
        badLengthState.dec.decErrR = some .lengthOutOfRange) ∧
      Inv badCrcState ∧ badCrcState.dec.decState = .rejected ∧ badCrcState.dec.decErrR = some .checksumMismatch :=
  ⟨⟨inv_acceptedState, rfl⟩, ⟨inv_badStartState, rfl, rfl⟩, ⟨inv_badLengthState, rfl, rfl⟩, inv_badCrcState, rfl, rfl⟩

/-- One edge from reset, at which an attempt begins. -/
theorem witness_EveryRunKeepsRule38 :
    ∃ s, Host.Core.run Sys2Proof.core 1 { State.reset with env := { Env.empty with stims := [.edge Edge.start] } } =
      .next s ∧ s.dec.decState = .awaitStart := ⟨_, rfl, rfl⟩

theorem witness_EveryRunRefinesTheFunctions :
    ∃ s, Host.Core.run Sys2Proof.core 1
      { State.reset with env := { Env.empty with stims := [.edge (Edge.load 0x01 0x00 zeroPayload)] } } =
      .next s ∧ s.enc.encState = .encStart := ⟨_, rfl, rfl⟩

/-- P1, P1b's length 8, and the shortest frame after a rejected attempt. -/
theorem witness_LoopbackDeliversTheFrame :
    (State.reset.enc.encState = .encIdle ∧ State.reset.dec.decState.reading = false ∧ (0x03 : Byte).toNat ≤ 8 ∧
        (withStims (loopbackStims 0x10 0x03 knownData ++ []) State.reset).env.stims =
          loopbackStims 0x10 0x03 knownData ++ []) ∧
      ((0x08 : Byte).toNat ≤ 8 ∧
        (withStims (loopbackStims 0x00 0x08 ⟨1, 2, 3, 4, 5, 6, 7, 8⟩ ++ []) State.reset).env.stims =
          loopbackStims 0x00 0x08 ⟨1, 2, 3, 4, 5, 6, 7, 8⟩ ++ []) ∧
      badCrcState.enc.encState = .encIdle ∧ badCrcState.dec.decState.reading = false ∧ (0x00 : Byte).toNat ≤ 8 ∧
        (withStims (loopbackStims 0xFF 0x00 zeroPayload ++ [.recv]) badCrcState).env.stims =
          loopbackStims 0xFF 0x00 zeroPayload ++ [.recv] := by decide

end Sys2Proof.Tests
end

section
/-! SUPPORT. An operation off its condition changes nothing (00_scope.md R9). -/

namespace Sys2Proof.Machine

/-- Where an operation's own port activity (30_encoding.md R93) does not select it, no port values do, and its writes
are guarded off (00_scope.md R9). -/
theorem effect_eq_self_of_not_applies_drive {i : Instr} {s : State} (hf : i.isFrame = false)
    (hoff : i.applies s.enc.encState s.dec.decState s.dec.decCrc i.drive = false) : effect i s = s := by
  cases i
  case crcHold | encWait | encIdle | decWait | decHold => rfl
  case rst | crcClr | crcUpd => simp [Instr.applies, Instr.drive, Ports.quiet, HostPorts.quiet] at hoff
  case frameL0 | frameL1 | frameL2 | frameL3 | frameL4 | frameL5 | frameL6 | frameL7 | frameL8 => cases hf
  case decStart =>
    cases hr : s.dec.decState.reading
    · simp [Instr.applies, Instr.drive, Ports.quiet, HostPorts.quiet, hr] at hoff
    · exact if_pos hr
  case decSofBad b =>
    refine if_neg fun hc => hc.2 ?_
    simpa [Instr.applies, Instr.drive, Ports.quiet, HostPorts.quiet, hc] using hoff
  case decRdLenBad b =>
    refine if_neg fun hc => ?_
    have hlt : b.toNat < 9 := by simpa [Instr.applies, Instr.drive, Ports.quiet, HostPorts.quiet, hc] using hoff
    exact Nat.not_lt.mpr hc.2 hlt
  -- every other operation is `if c then … else s`, and under `c` its port activity selects it
  all_goals
    refine if_neg fun hc => ?_
    simp [Instr.applies, Instr.drive, Ports.quiet, HostPorts.quiet, hc] at hoff

end Sys2Proof.Machine

namespace Sys2Proof.Proofs

open Machine

/-- Settles O35: an operation's own port activity is among the port values that do not make its row apply. -/
theorem operationsDoNothingOffTheirCondition : Obligations.OperationsDoNothingOffTheirCondition := by
  intro i s hf hoff
  rw [exec_eq_next, effect_eq_self_of_not_applies_drive hf (hoff i.drive)]

end Sys2Proof.Proofs
end

section
/-! SUPPORT. What the invariants of one unit look at, and the induction of `step_keeps` for each unit: the other units do
not touch what they look at. -/

namespace Sys2Proof.Machine

/-- Taking a byte touches only the decoder's part of the record. -/
theorem takeByte_hist (b : Byte) (s : State) : (takeByte b s).hist = { s.hist with
    rxTaken := (takeByte b s).hist.rxTaken
    rxAll := (takeByte b s).hist.rxAll
    results := (takeByte b s).hist.results } := by
  rcases takeByte_cases b s with ⟨-, -, h⟩ | ⟨-, -, h⟩ | ⟨-, h⟩ | ⟨-, -, h⟩ | ⟨-, -, h⟩ | ⟨-, h⟩ | ⟨-, -, h⟩ | ⟨-, -, h⟩ |
    ⟨-, h⟩ <;> rw [h] <;> rfl

/-- What the encoder's invariants look at. -/
def encView (s : State) : Enc × List Frame × List Byte := (s.enc, s.hist.loaded, s.hist.txFired)

/-- What the decoder's invariants look at. -/
def decView (s : State) : Dec × List Byte × List Byte × List Result :=
  (s.dec, s.hist.rxTaken, s.hist.rxAll, s.hist.results)

theorem encView_effect_selectCrcu (h : HostPorts) (s : State) : encView (effect (selectCrcu h) s) = encView s := by
  obtain ⟨he, -, -, hh⟩ := effect_selectCrcu_frame h s
  rw [encView, he, hh]; rfl

theorem encView_takeByte (b : Byte) (s : State) : encView (takeByte b s) = encView s := by
  rw [encView, (takeByte_frame b s).2.1, takeByte_hist]; rfl

theorem decView_effect_selectCrcu (h : HostPorts) (s : State) : decView (effect (selectCrcu h) s) = decView s := by
  obtain ⟨-, hd, -, hh⟩ := effect_selectCrcu_frame h s
  rw [decView, hd, hh]; rfl

theorem decView_effect_selectEnc (p : Ports) (s : State) :
    decView (effect (selectEnc s.enc.encState p) s) = decView s := by
  obtain ⟨-, hd, -, hh⟩ := effect_selectEnc_frame p s
  rw [decView, hd, hh]; rfl

/-- `step_keeps` for what looks at the encoder alone. -/
theorem step_keeps_of_encView {P : State → Prop} (hview : ∀ {s t}, encView t = encView s → P s → P t)
    (hrst : ∀ s, P (effRst s)) (henc : ∀ p s, P s → P (effect (selectEnc s.enc.encState p) s)) {s t : State} (hs : P s)
    (h : step s = .next t) : P t :=
  step_keeps (P := P) (fun _ _ => hview rfl) (fun s _ => hrst s) (fun h s => hview (encView_effect_selectCrcu h s)) henc
    (fun _ _ => hview rfl) (fun b s _ => hview (encView_takeByte b s)) hs h

/-- `step_keeps` for what looks at the decoder alone. -/
theorem step_keeps_of_decView {P : State → Prop} (hview : ∀ {s t}, decView t = decView s → P s → P t)
    (hrst : ∀ s, P (effRst s)) (hstart : ∀ s, s.dec.decState.reading = false → P s → P (startAttempt s))
    (hbyte : ∀ b s, s.dec.decState.reading = true → P s → P (takeByte b s)) {s t : State} (hs : P s)
    (h : step s = .next t) : P t :=
  step_keeps (P := P) (fun _ _ => hview rfl) (fun s _ => hrst s) (fun h s => hview (decView_effect_selectCrcu h s))
    (fun p s => hview (decView_effect_selectEnc p s)) hstart hbyte hs h

theorem enc_eq_of_encView {s t : State} (h : encView t = encView s) : t.enc = s.enc := congrArg Prod.fst h

theorem dec_eq_of_decView {s t : State} (h : decView t = decView s) : t.dec = s.dec := congrArg Prod.fst h

theorem EncTrace.of_encView {s t : State} (h : encView t = encView s) (hs : EncTrace s) : EncTrace t := by
  simp only [encView, Prod.mk.injEq] at h
  obtain ⟨he, hl, hf⟩ := h
  unfold EncTrace; rw [he, hl, hf]; exact hs

theorem DecTrace.of_decView {s t : State} (h : decView t = decView s) (hs : DecTrace s) : DecTrace t := by
  simp only [decView, Prod.mk.injEq] at h
  obtain ⟨hd, ht, -⟩ := h
  unfold DecTrace; rw [hd, ht]; exact hs

theorem ResultsTrace.of_decView {s t : State} (h : decView t = decView s) (hs : ResultsTrace s) : ResultsTrace t := by
  simp only [decView, Prod.mk.injEq] at h
  obtain ⟨hd, ht, ha, hr⟩ := h
  unfold ResultsTrace; rw [hd, ht, ha, hr]; exact hs

/-! #### The checksum unit -/

theorem crcTrace_selectCrcu (h : HostPorts) {s : State} (hs : CrcTrace s) : CrcTrace (effect (selectCrcu h) s) := by
  unfold selectCrcu
  split
  · exact rfl
  · split
    · show crc8Update s.crcu.crcQ h.crcDin = crc8 (s.hist.crcFed ++ [h.crcDin])
      rw [crc8_snoc, hs]
    · exact hs

/-- Every step keeps the refinement of 40_crc8.md R119. -/
theorem crcTrace_step {s t : State} (hs : CrcTrace s) (h : step s = .next t) : CrcTrace t := by
  refine step_keeps (P := CrcTrace) (fun _ _ hs => hs) (fun _ _ => rfl) (fun h _ hs => crcTrace_selectCrcu h hs) ?_
    (fun _ _ hs => hs) ?_ hs h
  · intro p s hs
    obtain ⟨hc, -, -, hh⟩ := effect_selectEnc_frame p s
    rw [CrcTrace, hc, hh]; exact hs
  · intro b s _ hs
    rw [CrcTrace, (takeByte_frame b s).1, takeByte_hist]; exact hs

end Sys2Proof.Machine
end

section
/-! SUPPORT. The functional level: the cases of `decode` (42_decoder.md R160), that what follows an ended attempt does not
change it (R161, D1), and the encoding of the frame in a unit's registers (41_encoder.md R130). -/

namespace Sys2Proof.Machine

theorem decode_of_badStart {b : Byte} (hb : b ≠ Config.start) (t : List Byte) :
    decode (b :: t) = .done (.err .badStartByte) 1 := if_pos hb

theorem decode_of_illegal {len : Byte} (h : 8 < len.toNat) (i : Byte) (t : List Byte) :
    decode (Config.start :: i :: len :: t) = .done (.err .lengthOutOfRange) 3 :=
  dif_neg (Nat.not_le.mpr h)

theorem decode_of_legal {i len : Byte} (legal : len.toNat ≤ Config.maxLen) (body : List Byte) :
    decode (Config.start :: i :: len :: body) = decodeTail i len legal body :=
  dif_pos legal

section
variable {i len : Byte} {legal : len.toNat ≤ Config.maxLen} {d : List Byte}

theorem decodeTail_of_short (h : d.length < len.toNat) : decodeTail i len legal d = .pending .readData d.length :=
  if_pos h

theorem decodeTail_of_whole (h : d.length = len.toNat) : decodeTail i len legal d = .pending .readChecksum 0 := by
  simp [decodeTail, ← h]

theorem decodeTail_of_checksum (h : d.length = len.toNat) (c : Byte) (t : List Byte) :
    decodeTail i len legal (d ++ c :: t) =
      if c = crc8 (i :: len :: d) then .done (.ok { id := i, data := d, short := h ▸ legal }) (4 + len.toNat)
      else .done (.err .checksumMismatch) (4 + len.toNat) := by
  simp [decodeTail, ← h]

theorem decodeTail_append_of_done {r : Result} {n : Nat} (h : decodeTail i len legal d = .done r n) (t : List Byte) :
    decodeTail i len legal (d ++ t) = .done r n := by
  obtain ⟨-, hl⟩ := decodeTail_done_bounds h
  obtain ⟨c, rest, hd⟩ : ∃ c rest, d.drop len.toNat = c :: rest :=
    List.ne_nil_iff_exists_cons.mp fun hnil => Nat.not_le.mpr hl (List.drop_eq_nil_iff.mp hnil)
  have hlen : (d.take len.toNat).length = len.toNat := List.length_take_of_le hl.le
  have hsplit : d = d.take len.toNat ++ c :: rest := by rw [← hd, List.take_append_drop]
  rw [hsplit, decodeTail_of_checksum hlen] at h
  rw [hsplit, List.append_assoc, List.cons_append, decodeTail_of_checksum hlen, h]

end

/-- 42_decoder.md R161, D1: an ended attempt ends the same way whatever bytes follow. -/
theorem decode_append_of_done {s : List Byte} {r : Result} {n : Nat} (h : decode s = .done r n) (t : List Byte) :
    decode (s ++ t) = .done r n := by
  match s with
  | [] => cases h
  | b :: s1 =>
    by_cases hb : b = Config.start
    · subst hb
      match s1 with
      | [] => cases h
      | [_] => cases h
      | i :: len :: body =>
        by_cases legal : len.toNat ≤ Config.maxLen
        · rw [decode_of_legal legal] at h
          exact (decode_of_legal legal _).trans (decodeTail_append_of_done h t)
        · rw [decode_of_illegal (Nat.not_le.mp legal)] at h
          exact (decode_of_illegal (Nat.not_le.mp legal) i (body ++ t)).trans h
    · rw [decode_of_badStart hb] at h
      exact (decode_of_badStart hb (s1 ++ t)).trans h

/-- Case 9 of 42_decoder.md R160, on exactly the bytes of the attempt. -/
theorem decode_of_badChecksum {i len c : Byte} {d : List Byte} (hl : len.toNat ≤ 8) (hd : d.length = len.toNat)
    (hc : c ≠ crc8 (i :: len :: d)) :
    decode (Config.start :: i :: len :: (d ++ [c])) =
      .done (.err .checksumMismatch) (Config.start :: i :: len :: (d ++ [c])).length := by
  have hn : (Config.start :: i :: len :: (d ++ [c])).length = 4 + len.toNat := by
    simp only [List.length_cons, List.length_append, List.length_nil, hd]
    omega
  rw [hn, decode_of_legal hl, decodeTail_of_checksum hd, if_neg hc]

theorem decodeAll_of_pending {s : List Byte} {st : DecState} {k : Nat} (h : decode s = .pending st k) :
    decodeAll s = [] := by
  unfold decodeAll
  cases s.length with
  | zero => rfl
  | succ m => simp only [decodeAllWithin, h]

theorem Consumed.decodeAll_eq {w : List Byte} {rs : List Result} (h : Consumed w rs) : decodeAll w = rs := by
  have h0 := h []
  rwa [List.append_nil, show decodeAll [] = [] from rfl, List.append_nil] at h0

theorem encode_ofPayload (id : Byte) {len : Byte} (d : Payload) (h : len.toNat ≤ 8) :
    (Frame.ofPayload id d len.toNat).encode =
      Config.start :: id :: len :: (d.upTo len.toNat ++ [crc8 (id :: len :: d.upTo len.toNat)]) := by
  have hlen : (Frame.ofPayload id d len.toNat).len = len := by simp [Frame.len, d.length_upTo _ h]
  simp [Frame.encode, Frame.checksum, Frame.body, hlen]

theorem length_encode_ofPayload (id : Byte) {len : Byte} (d : Payload) (h : len.toNat ≤ 8) :
    (Frame.ofPayload id d len.toNat).encode.length = 4 + len.toNat := by
  simp only [encode_ofPayload id d h, List.length_cons, List.length_append, List.length_nil, d.length_upTo _ h]
  omega

/-- 42_decoder.md R162, T1, for the frame in a unit's registers. -/
theorem decode_encode_ofPayload (id : Byte) {len : Byte} (d : Payload) (h : len.toNat ≤ 8) :
    decode (Frame.ofPayload id d len.toNat).encode =
      .done (.ok (Frame.ofPayload id d len.toNat)) (Frame.ofPayload id d len.toNat).encode.length := by
  rw [length_encode_ofPayload id d h, encode_ofPayload id d h, decode_of_legal h,
    decodeTail_of_checksum (d.length_upTo _ h), if_pos rfl]
  rfl

end Sys2Proof.Machine
end

section
/-! SUPPORT. The encoder keeps 10_state.md R38 and 41_encoder.md R143: whatever `ENC` does at an edge is nothing, a load, a
length fault, or the byte at the wire position fired. -/

namespace Sys2Proof.Machine

theorem toNat_pos_of_ne_zero {b : Byte} (h : b ≠ 0x00) : 0 < b.toNat :=
  Nat.pos_of_ne_zero fun h0 => h (BitVec.eq_of_toNat_eq h0)

/-- A payload index does not wrap where a buffer has an entry (10_state.md R27). -/
theorem toNat_add_one {i : Index} (h : i.toNat < 8) : (i + 1).toNat = i.toNat + 1 := by
  rw [BitVec.toNat_add, show (1 : Index).toNat = 1 from rfl, Nat.mod_eq_of_lt (by omega)]

theorem getElem?_upTo (d : Payload) {i : Index} {n : Nat} (hn : n ≤ 8) (h : i.toNat < n) :
    (d.upTo n)[i.toNat]? = some (d.get i) := by
  have hupTo : d.upTo (i.toNat + 1) = (d.upTo n).take (i.toNat + 1) := by
    rw [Payload.upTo, Payload.upTo, List.take_take, Nat.min_eq_left h]
  have hlast : (d.upTo (i.toNat + 1))[i.toNat]? = some (d.get i) := by
    rw [d.upTo_succ i (by omega), List.getElem?_append_right (d.length_upTo _ (by omega)).le,
      d.length_upTo _ (by omega), Nat.sub_self]
    rfl
  rwa [hupTo, List.getElem?_take_of_lt (Nat.lt_succ_self _)] at hlast

/-- The registers of `ENC` after the byte on offer has fired (41_encoder.md R135 to R139). -/
def Enc.fired (e : Enc) : Enc :=
  match e.encState with
  | .encIdle => e
  | .encStart => { e with encState := .encId }
  | .encId => { e with encState := .encLen, encCrc := crc8Update e.encCrc e.encIdR }
  | .encLen =>
    { e with encState := if e.encLenR = 0x00 then .encCrc else .encData, encCrc := crc8Update e.encCrc e.encLenR }
  | .encData =>
    { e with
      encCrc := crc8Update e.encCrc (e.encDataR.get e.encIdx)
      encIdx := e.encIdx + 1
      encState := if e.encIdx.toNat + 1 = e.encLenR.toNat then .encCrc else .encData }
  | .encCrc => { e with encState := .encIdle }

/-- What `ENC` does at an edge: nothing, a load, a length fault, or the byte on offer fires. -/
theorem effect_selectEnc_outcome (p : Ports) (s : State) :
    effect (selectEnc s.enc.encState p) s = s ∨
    (s.enc.encState = .encIdle ∧ p.host.encLen.toNat ≤ 8 ∧ effect (selectEnc s.enc.encState p) s =
      noteLoaded (Frame.ofPayload p.host.encId p.host.encDataIn p.host.encLen.toNat) { s with
        enc := { s.enc with encIdR := p.host.encId, encLenR := p.host.encLen, encDataR := p.host.encDataIn, encIdx := 0,
                            encCrc := 0x00, encState := .encStart } }) ∨
    (s.enc.encState = .encIdle ∧ effect (selectEnc s.enc.encState p) s = raiseEncLengthFault s) ∨
    (s.enc.encState ≠ .encIdle ∧
      effect (selectEnc s.enc.encState p) s = noteFired (txData s.enc) { s with enc := s.enc.fired }) := by
  rcases effect_selectEnc_cases p s with hu | ⟨hs, hlen, hu⟩ | ⟨hs, hu⟩ | ⟨hs, hu⟩ | ⟨hs, hu⟩ | ⟨hs, hu⟩ | ⟨hs, hu⟩ |
    ⟨hs, hu⟩ <;> rw [hu]
  · exact .inl rfl
  · exact .inr (.inl ⟨hs, hlen, if_pos ⟨hs, hlen⟩⟩)
  · exact .inr (.inr (.inl ⟨hs, rfl⟩))
  all_goals
    refine .inr (.inr (.inr ⟨by rw [hs]; decide, (if_pos hs).trans ?_⟩))
    simp only [Enc.fired, hs] <;> rfl

/-! #### 10_state.md R38, I1 to I3 -/

theorem encInv_fired {e : Enc} (h : EncInv e) : EncInv e.fired := by
  obtain ⟨hl, hi, hst⟩ := h
  cases he : e.encState <;> simp only [he] at hst <;> simp only [Enc.fired, he]
  case encIdle => exact ⟨hl, hi, by rw [he]; trivial⟩
  case encStart => exact ⟨hl, hi, hst⟩
  case encId =>
    obtain ⟨h0, hc⟩ := hst
    exact ⟨hl, hi, h0, by rw [hc, crc8_singleton]⟩
  case encLen =>
    obtain ⟨h0, hc⟩ := hst
    have hcrc : crc8Update e.encCrc e.encLenR = crc8 (e.encIdR :: e.encLenR :: e.encDataR.upTo 0) := by
      rw [hc]; exact (crc8_pair _ _).symm
    by_cases hz : e.encLenR = 0x00
    · rw [if_pos hz]
      exact ⟨hl, hi, by rw [h0, hz]; rfl, by rw [hcrc, hz]; rfl⟩
    · rw [if_neg hz]
      exact ⟨hl, hi, by rw [h0]; exact toNat_pos_of_ne_zero hz, by rw [hcrc, h0]; rfl⟩
  case encData =>
    obtain ⟨hlt, hc⟩ := hst
    have hidx := toNat_add_one (i := e.encIdx) (by omega)
    have hcrc : crc8Update e.encCrc (e.encDataR.get e.encIdx) =
        crc8 (e.encIdR :: e.encLenR :: e.encDataR.upTo (e.encIdx.toNat + 1)) := by
      rw [hc, e.encDataR.upTo_succ _ (by omega), ← List.cons_append, ← List.cons_append, crc8_snoc]
    have hi' : (e.encIdx + 1).toNat ≤ e.encLenR.toNat := by omega
    split
    · next hlast => exact ⟨hl, hi', hidx.trans hlast, by rw [hcrc, hlast]⟩
    · next hlast =>
      have hlt' : (e.encIdx + 1).toNat < e.encLenR.toNat := by omega
      exact ⟨hl, hi', hlt', by rw [hcrc, hidx]⟩
  case encCrc => exact ⟨hl, hi, trivial⟩

theorem encInv_selectEnc (p : Ports) (s : State) (h : EncInv s.enc) :
    EncInv (effect (selectEnc s.enc.encState p) s).enc := by
  rcases effect_selectEnc_outcome p s with hu | ⟨-, hlen, hu⟩ | ⟨-, hu⟩ | ⟨-, hu⟩ <;> rw [hu]
  · exact h
  · exact ⟨hlen, Nat.zero_le _, rfl, rfl⟩
  · exact h
  · exact encInv_fired h

theorem encInv_reset : EncInv Enc.reset := ⟨by decide, by decide, trivial⟩

/-- Every step keeps the encoder's part of 10_state.md R38. -/
theorem encInv_step {s t : State} (hs : EncInv s.enc) (h : step s = .next t) : EncInv t.enc :=
  step_keeps_of_encView (P := fun s => EncInv s.enc) (fun hv hs => enc_eq_of_encView hv ▸ hs) (fun _ => encInv_reset)
    encInv_selectEnc hs h

/-! #### 41_encoder.md R143 -/

/-- The byte on offer is the one at the wire position (10_state.md R29, R31). -/
theorem encode_getElem?_encPosition {e : Enc} (h : EncInv e) (hs : e.encState ≠ .encIdle) :
    (encFrame e).encode[encPosition e]? = some (txData e) := by
  obtain ⟨hl, -, hst⟩ := h
  have hlen := e.encDataR.length_upTo _ hl
  rw [encFrame, encode_ofPayload _ _ hl]
  cases he : e.encState <;> simp only [he] at hst <;> simp only [encPosition, txData, he]
  case encIdle => exact absurd he hs
  case encStart | encId | encLen => rfl
  case encData =>
    obtain ⟨hlt, -⟩ := hst
    rw [Nat.add_comm 3]
    show (e.encDataR.upTo e.encLenR.toNat ++ _)[e.encIdx.toNat]? = _
    rw [List.getElem?_append_left (hlen.symm ▸ hlt), getElem?_upTo _ hl hlt]
  case encCrc =>
    obtain ⟨-, hc⟩ := hst
    rw [Nat.add_comm 3]
    show (e.encDataR.upTo e.encLenR.toNat ++ _)[e.encLenR.toNat]? = _
    rw [List.getElem?_append_right hlen.le, hlen, Nat.sub_self, hc]; rfl

/-- Firing moves the wire position on by one, or sends the checksum byte and ends the frame. -/
theorem encPosition_fired {e : Enc} (h : EncInv e) (hs : e.encState ≠ .encIdle) :
    e.encState = .encCrc ∧ e.fired.encState = .encIdle ∨
      e.fired.encState ≠ .encIdle ∧ encPosition e.fired = encPosition e + 1 := by
  obtain ⟨hl, -, hst⟩ := h
  cases he : e.encState <;> simp only [he] at hst <;> simp only [Enc.fired, encPosition, he]
  case encIdle => exact absurd he hs
  case encStart | encId => exact .inr ⟨by decide, trivial⟩
  case encLen =>
    obtain ⟨h0, -⟩ := hst
    by_cases hz : e.encLenR = 0x00
    · rw [if_pos hz]; exact .inr ⟨by decide, by rw [hz]; rfl⟩
    · rw [if_neg hz]; exact .inr ⟨by decide, by rw [h0]; rfl⟩
  case encData =>
    obtain ⟨hlt, -⟩ := hst
    have hidx := toNat_add_one (i := e.encIdx) (by omega)
    by_cases hlast : e.encIdx.toNat + 1 = e.encLenR.toNat
    · rw [if_pos hlast]; exact .inr ⟨by decide, by rw [← hlast]; rfl⟩
    · rw [if_neg hlast]; exact .inr ⟨by decide, by rw [hidx]; rfl⟩
  case encCrc => exact .inl ⟨trivial, trivial⟩

theorem encFrame_fired (e : Enc) : encFrame e.fired = encFrame e := by
  unfold Enc.fired; split <;> rfl

/-- The checksum byte is the last one of the frame. -/
theorem take_encode_encCrc {e : Enc} (h : EncInv e) (hs : e.encState = .encCrc) :
    (encFrame e).encode.take (encPosition e + 1) = (encFrame e).encode := by
  refine List.take_of_length_le ?_
  rw [encFrame, length_encode_ofPayload _ _ h.1, encPosition, hs]
  show 4 + e.encLenR.toNat ≤ 3 + e.encLenR.toNat + 1
  omega

theorem encTrace_fired {s : State} (hi : EncInv s.enc) (hs : s.enc.encState ≠ .encIdle) (h : EncTrace s) :
    EncTrace (noteFired (txData s.enc) { s with enc := s.enc.fired }) := by
  rw [EncTrace, if_neg hs] at h
  obtain ⟨before, hl, hf⟩ := h
  have hfired : s.hist.txFired ++ [txData s.enc] =
      before.flatMap Frame.encode ++ (encFrame s.enc).encode.take (encPosition s.enc + 1) := by
    rw [List.take_add_one, encode_getElem?_encPosition hi hs, hf, List.append_assoc]; rfl
  rw [EncTrace]
  simp only [noteFired_hist, noteFired_enc, encFrame_fired, hfired]
  rcases encPosition_fired hi hs with ⟨hcrc, hidle⟩ | ⟨hbusy, hpos⟩
  · rw [if_pos hidle, take_encode_encCrc hi hcrc, hl, List.flatMap_append, List.flatMap_singleton]
  · rw [if_neg hbusy, hpos]
    exact ⟨before, hl, rfl⟩

theorem encTrace_selectEnc (p : Ports) {s : State} (hi : EncInv s.enc) (h : EncTrace s) :
    EncTrace (effect (selectEnc s.enc.encState p) s) := by
  rcases effect_selectEnc_outcome p s with hu | ⟨hs, -, hu⟩ | ⟨-, hu⟩ | ⟨hs, hu⟩ <;> rw [hu]
  · exact h
  · rw [EncTrace, if_pos hs] at h
    exact ⟨s.hist.loaded, rfl, by rw [encPosition]; simpa using h⟩
  · exact h
  · exact encTrace_fired hi hs h

theorem encTrace_effRst (s : State) : EncTrace (effRst s) := rfl

/-- Every step keeps the refinement of 41_encoder.md R143. -/
theorem encTrace_step {s t : State} (hi : EncInv s.enc) (hs : EncTrace s) (h : step s = .next t) : EncTrace t :=
  (step_keeps_of_encView (P := fun s => EncInv s.enc ∧ EncTrace s)
    (fun hv ⟨hi, hs⟩ => ⟨enc_eq_of_encView hv ▸ hi, hs.of_encView hv⟩) (fun s => ⟨encInv_reset, encTrace_effRst s⟩)
    (fun p s ⟨hi, hs⟩ => ⟨encInv_selectEnc p s hi, encTrace_selectEnc p hi hs⟩) ⟨hi, hs⟩ h).2

/-- The bytes fired are the first of the concatenated encodings, and all of them when the encoder is idle. -/
theorem EncTrace.txFired_eq_take {s : State} (h : EncTrace s) :
    ∃ n : Nat, s.hist.txFired = (s.hist.loaded.flatMap Frame.encode).take n ∧
      (s.enc.encState = .encIdle → s.hist.txFired = s.hist.loaded.flatMap Frame.encode) := by
  by_cases hs : s.enc.encState = .encIdle
  · rw [EncTrace, if_pos hs] at h
    exact ⟨_, by rw [h, List.take_length], fun _ => h⟩
  · rw [EncTrace, if_neg hs] at h
    obtain ⟨before, hl, hf⟩ := h
    refine ⟨(before.flatMap Frame.encode).length + encPosition s.enc, ?_, fun h => absurd h hs⟩
    rw [hf, hl, List.flatMap_append, List.flatMap_singleton, List.take_length_add_append]

end Sys2Proof.Machine
end

section
/-! SUPPORT. The decoder keeps 10_state.md R38, 42_decoder.md R181 and R184: each byte taken moves the registers, the bytes
taken and the results on together. -/

namespace Sys2Proof.Machine

/-! #### 10_state.md R38, I4 to I8 -/

theorem zeroFrom_set {d : Payload} {i : Index} (h : zeroFrom d i.toNat) (b : Byte) :
    zeroFrom (d.set i b) (i.toNat + 1) := by
  intro j hij hj
  rw [d.get_set_of_ne b i j (fun he => by rw [he] at hij; omega)]
  exact h j (by omega) hj

theorem zeroFrom_zeroPayload (n : Nat) : zeroFrom zeroPayload n := by
  have h : ∀ i : Index, i.toNat < 8 → zeroPayload.get i = 0x00 := by decide
  exact fun i _ hi => h i hi

/-- The LEN byte begins the body, with no payload byte yet (42_decoder.md R168, R169). -/
theorem decBody_rdLen {d : Dec} (h0 : d.decIdx = 0) (hc : d.decCrc = crc8 [d.decIdR]) (hz : zeroFrom d.decDataR 0)
    {b : Byte} (hb : b.toNat ≤ 8) (st : DecState) :
    DecBody { d with decState := st, decLenR := b, decCrc := crc8Update d.decCrc b } := by
  have h0n : d.decIdx.toNat = 0 := by rw [h0]; rfl
  refine ⟨hb, ?_, h0n ▸ hz⟩
  show crc8Update d.decCrc b = crc8 (d.decIdR :: b :: d.decDataR.upTo d.decIdx.toNat)
  rw [h0n, hc]; exact (crc8_pair _ _).symm

/-- One payload byte more (42_decoder.md R171). -/
theorem decBody_rdData {d : Dec} (h : DecBody d) (hlt : d.decIdx.toNat < d.decLenR.toNat) (b : Byte) (st : DecState) :
    DecBody { d with decDataR := d.decDataR.set d.decIdx b, decCrc := crc8Update d.decCrc b, decIdx := d.decIdx + 1,
                     decState := st } := by
  obtain ⟨hl, hc, hz⟩ := h
  have hidx := toNat_add_one (i := d.decIdx) (by omega)
  refine ⟨hl, ?_, ?_⟩
  · show crc8Update d.decCrc b = crc8 (_ :: _ :: (d.decDataR.set d.decIdx b).upTo (d.decIdx + 1).toNat)
    rw [hidx, d.decDataR.upTo_set_succ b _ (by omega), ← List.cons_append, ← List.cons_append, crc8_snoc, hc]
  · show zeroFrom (d.decDataR.set d.decIdx b) (d.decIdx + 1).toNat
    rw [hidx]; exact zeroFrom_set hz b

theorem decInv_takeByte (b : Byte) {s : State} (h : DecInv s.dec) : DecInv (takeByte b s).dec := by
  obtain ⟨hi, hst⟩ := h
  rcases takeByte_cases b s with ⟨hs, -, ht⟩ | ⟨hs, -, ht⟩ | ⟨hs, ht⟩ | ⟨hs, hb, ht⟩ | ⟨hs, hb, ht⟩ | ⟨hs, ht⟩ |
    ⟨hs, hb, ht⟩ | ⟨hs, hb, ht⟩ | ⟨-, ht⟩ <;> rw [ht]
  on_goal 9 => exact ⟨hi, hst⟩
  all_goals simp only [hs] at hst
  · exact ⟨hi, hst⟩
  · exact ⟨hi, by simp⟩
  · obtain ⟨he, h0, -, hc, hz⟩ := hst
    refine ⟨hi, he, h0, ?_, hz⟩
    show crc8Update s.dec.decCrc b = crc8 [b]
    rw [hc, crc8_singleton]
  · obtain ⟨he, h0, hc, hz⟩ := hst
    have h0n : s.dec.decIdx.toNat = 0 := by rw [h0]; rfl
    refine ⟨fun _ => h0n ▸ Nat.zero_le _, ?_⟩
    by_cases hb0 : b = 0x00
    · simp only [noteTaken_dec, if_pos hb0]
      exact ⟨he, by rw [h0n, hb0]; rfl, decBody_rdLen h0 hc hz hb _⟩
    · simp only [noteTaken_dec, if_neg hb0]
      exact ⟨he, h0n ▸ toNat_pos_of_ne_zero hb0, decBody_rdLen h0 hc hz hb _⟩
  · exact ⟨fun hl => absurd hb (Nat.not_lt.mpr hl), by simp, fun _ => hb, by simp⟩
  · obtain ⟨he, hlt, hbody⟩ := hst
    have hl : s.dec.decLenR.toNat ≤ 8 := hbody.1
    have hidx := toNat_add_one (i := s.dec.decIdx) (by omega)
    have hi' : (s.dec.decIdx + 1).toNat ≤ s.dec.decLenR.toNat := by omega
    refine ⟨fun _ => hi', ?_⟩
    by_cases hlast : s.dec.decIdx.toNat + 1 = s.dec.decLenR.toNat
    · simp only [noteTaken_dec, if_pos hlast]
      exact ⟨he, hidx.trans hlast, decBody_rdData hbody hlt b _⟩
    · simp only [noteTaken_dec, if_neg hlast]
      exact ⟨he, by omega, decBody_rdData hbody hlt b _⟩
  · obtain ⟨he, hidx, hbody⟩ := hst
    exact ⟨hi, he, hidx, hbody, hb⟩
  · exact ⟨hi, by simp, by simp, fun _ => hb⟩

theorem decInv_startAttempt (s : State) : DecInv (startAttempt s).dec :=
  ⟨fun _ => Nat.zero_le _, rfl, rfl, rfl, rfl, zeroFrom_zeroPayload 0⟩

theorem decInv_reset : DecInv Dec.reset := ⟨fun _ => Nat.zero_le _, rfl⟩

/-- Every step keeps the decoder's part of 10_state.md R38. -/
theorem decInv_step {s t : State} (hs : DecInv s.dec) (h : step s = .next t) : DecInv t.dec :=
  step_keeps_of_decView (P := fun s => DecInv s.dec) (fun hv hs => dec_eq_of_decView hv ▸ hs) (fun _ => decInv_reset)
    (fun s _ _ => decInv_startAttempt s) (fun b _ _ hs => decInv_takeByte b hs) hs h

/-! #### 42_decoder.md R181 -/

theorem decTrace_takeByte (b : Byte) {s : State} (hi : DecInv s.dec) (h : DecTrace s) : DecTrace (takeByte b s) := by
  obtain ⟨-, hst⟩ := hi
  rcases takeByte_cases b s with ⟨hs, hb, ht⟩ | ⟨hs, hb, ht⟩ | ⟨hs, ht⟩ | ⟨hs, hb, ht⟩ | ⟨hs, hb, ht⟩ | ⟨hs, ht⟩ |
    ⟨hs, hb, ht⟩ | ⟨hs, hb, ht⟩ | ⟨-, ht⟩ <;> rw [ht]
  on_goal 9 => exact h
  all_goals simp only [DecTrace, hs] at hst h
  · show s.hist.rxTaken ++ [b] = [Config.start]
    rw [h, hb]; rfl
  · refine ⟨_, rfl, ?_⟩
    show decode (s.hist.rxTaken ++ [b]) = .done _ (s.hist.rxTaken ++ [b]).length
    rw [h]; exact decode_of_badStart hb []
  · show s.hist.rxTaken ++ [b] = [Config.start, b]
    rw [h]; rfl
  · obtain ⟨-, h0, -⟩ := hst
    have htaken : s.hist.rxTaken ++ [b] =
        Config.start :: s.dec.decIdR :: b :: s.dec.decDataR.upTo s.dec.decIdx.toNat := by rw [h, h0]; rfl
    by_cases hb0 : b = 0x00
    · simp only [DecTrace, noteTaken_dec, if_pos hb0]; exact htaken
    · simp only [DecTrace, noteTaken_dec, if_neg hb0]; exact htaken
  · refine ⟨_, rfl, ?_⟩
    show decode (s.hist.rxTaken ++ [b]) = .done _ (s.hist.rxTaken ++ [b]).length
    rw [h]; exact decode_of_illegal hb _ []
  · obtain ⟨-, hlt, hl, -⟩ := hst
    have htaken : s.hist.rxTaken ++ [b] = Config.start :: s.dec.decIdR :: s.dec.decLenR ::
        (s.dec.decDataR.set s.dec.decIdx b).upTo (s.dec.decIdx + 1).toNat := by
      rw [toNat_add_one (by omega), s.dec.decDataR.upTo_set_succ b _ (by omega), h]; rfl
    by_cases hlast : s.dec.decIdx.toNat + 1 = s.dec.decLenR.toNat
    · simp only [DecTrace, noteTaken_dec, if_pos hlast]; exact htaken
    · simp only [DecTrace, noteTaken_dec, if_neg hlast]; exact htaken
  · obtain ⟨-, hidx, hl, hc, -⟩ := hst
    show s.hist.rxTaken ++ [b] = (Frame.ofPayload s.dec.decIdR s.dec.decDataR s.dec.decLenR.toNat).encode
    rw [h, encode_ofPayload _ _ hl, hb, hc, hidx]; rfl
  · obtain ⟨-, hidx, hl, hc, -⟩ := hst
    refine ⟨_, rfl, ?_⟩
    show decode (s.hist.rxTaken ++ [b]) = .done _ (s.hist.rxTaken ++ [b]).length
    rw [hc, hidx] at hb
    rw [h, hidx]
    exact decode_of_badChecksum hl (s.dec.decDataR.length_upTo _ hl) hb

/-- Every step keeps the bytes taken in step with the decoder's registers (42_decoder.md R181). -/
theorem decTrace_step {s t : State} (hi : DecInv s.dec) (hs : DecTrace s) (h : step s = .next t) : DecTrace t :=
  (step_keeps_of_decView (P := fun s => DecInv s.dec ∧ DecTrace s)
    (fun hv ⟨hi, hs⟩ => ⟨dec_eq_of_decView hv ▸ hi, hs.of_decView hv⟩) (fun _ => ⟨decInv_reset, rfl⟩)
    (fun s _ _ => ⟨decInv_startAttempt s, rfl⟩)
    (fun b _ _ ⟨hi, hs⟩ => ⟨decInv_takeByte b hi, decTrace_takeByte b hi hs⟩) ⟨hi, hs⟩ h).2

/-- `decode` of the bytes taken since DEC.START says where the decoder is (42_decoder.md R181). -/
theorem decRefines_of_decTrace {s : State} (hi : DecInv s.dec) (h : DecTrace s) : DecRefines s := by
  obtain ⟨-, hst⟩ := hi
  unfold DecTrace at h
  unfold DecRefines
  cases hs : s.dec.decState <;> simp only [hs] at hst h ⊢
  case decIdle | rejected => exact h
  case awaitStart | readId | readLen => rw [h]; rfl
  case readData =>
    obtain ⟨-, hlt, hl, -⟩ := hst
    have hlen := s.dec.decDataR.length_upTo s.dec.decIdx.toNat (by omega)
    rw [h, decode_of_legal hl, decodeTail_of_short (hlen.trans_lt hlt), hlen]
  case readChecksum =>
    obtain ⟨-, hidx, hl, -⟩ := hst
    rw [h, decode_of_legal hl, hidx, decodeTail_of_whole (s.dec.decDataR.length_upTo _ hl)]
  case accepted =>
    obtain ⟨-, -, ⟨hl, -⟩, -⟩ := hst
    rw [h]; exact decode_encode_ofPayload _ _ hl

/-- An attempt in flight is one on which `decode` waits. -/
theorem DecRefines.pending {s : State} (h : DecRefines s) (hr : s.dec.decState.reading = true) :
    ∃ st k, decode s.hist.rxTaken = .pending st k := by
  unfold DecRefines at h
  cases hs : s.dec.decState <;> simp only [hs] at h hr
  case decIdle | accepted | rejected => exact absurd hr (by decide)
  case awaitStart | readId | readLen | readData | readChecksum => exact ⟨_, _, h⟩

/-- An ended attempt is one on which `decode` ends, with its result and on all the bytes taken. -/
theorem DecRefines.done {s : State} (h : DecRefines s) {r : Result} (hr : attemptResult s.dec = some r) :
    decode s.hist.rxTaken = .done r s.hist.rxTaken.length := by
  unfold DecRefines at h
  unfold attemptResult at hr
  cases hs : s.dec.decState <;> simp only [hs] at h hr
  case accepted => cases hr; exact h
  case rejected =>
    obtain ⟨e, he, hd⟩ := h
    rw [he] at hr; cases hr; exact hd
  case decIdle | awaitStart | readId | readLen | readData | readChecksum => cases hr

/-! #### 42_decoder.md R184 -/

/-- A byte taken in an attempt joins the bytes taken, and the attempt goes on or ends with its result. -/
theorem takeByte_attempt {s : State} (hr : s.dec.decState.reading = true) (b : Byte) :
    (takeByte b s).hist.rxTaken = s.hist.rxTaken ++ [b] ∧ (takeByte b s).hist.rxAll = s.hist.rxAll ++ [b] ∧
      ((takeByte b s).dec.decState.reading = true ∧ (takeByte b s).hist.results = s.hist.results ∨
        (takeByte b s).dec.decState.reading = false ∧ ∃ r, attemptResult (takeByte b s).dec = some r ∧
          (takeByte b s).hist.results = s.hist.results ++ [r]) := by
  have hif (c : Prop) [Decidable c] : (if c then DecState.readChecksum else .readData).reading = true := by
    split <;> rfl
  rcases takeByte_cases b s with ⟨-, -, h⟩ | ⟨-, -, h⟩ | ⟨-, h⟩ | ⟨-, -, h⟩ | ⟨-, -, h⟩ | ⟨-, h⟩ | ⟨-, -, h⟩ | ⟨-, -, h⟩ |
    ⟨hn, -⟩
  on_goal 9 => exact absurd (hr.symm.trans hn) (by decide)
  all_goals rw [h]; refine ⟨rfl, rfl, ?_⟩
  · exact .inl ⟨rfl, rfl⟩
  · exact .inr ⟨rfl, _, rfl, rfl⟩
  · exact .inl ⟨rfl, rfl⟩
  · exact .inl ⟨hif _, rfl⟩
  · exact .inr ⟨rfl, _, rfl, rfl⟩
  · exact .inl ⟨hif _, rfl⟩
  · exact .inr ⟨rfl, _, rfl, rfl⟩
  · exact .inr ⟨rfl, _, rfl, rfl⟩

theorem resultsTrace_takeByte (b : Byte) {s : State} (hr : s.dec.decState.reading = true) (hi : DecInv s.dec)
    (ht : DecTrace s) (h : ResultsTrace s) : ResultsTrace (takeByte b s) := by
  rw [ResultsTrace, if_pos hr] at h
  obtain ⟨before, hall, hcons⟩ := h
  obtain ⟨htaken, hall', hnext⟩ := takeByte_attempt hr b
  have hsplit : (takeByte b s).hist.rxAll = before ++ (takeByte b s).hist.rxTaken := by
    rw [hall', hall, htaken, List.append_assoc]
  rcases hnext with ⟨hgo, hres⟩ | ⟨hend, r, hr', hres⟩
  · rw [ResultsTrace, if_pos hgo, hres]
    exact ⟨before, hsplit, hcons⟩
  · have hdone := (decRefines_of_decTrace (decInv_takeByte b hi) (decTrace_takeByte b hi ht)).done hr'
    rw [ResultsTrace, if_neg (by rw [hend]; decide), hres, hsplit]
    exact hcons.append (decode_append_of_done hdone)

theorem resultsTrace_startAttempt {s : State} (hr : s.dec.decState.reading = false) (h : ResultsTrace s) :
    ResultsTrace (startAttempt s) := by
  rw [ResultsTrace, if_neg (by rw [hr]; decide)] at h
  exact ⟨s.hist.rxAll, (List.append_nil _).symm, h⟩

theorem resultsTrace_effRst (s : State) : ResultsTrace (effRst s) := consumed_nil

/-- Every step keeps the recorded results `decode_all` of the bytes taken (42_decoder.md R184). -/
theorem resultsTrace_step {s t : State} (hi : DecInv s.dec) (ht : DecTrace s) (hs : ResultsTrace s)
    (h : step s = .next t) : ResultsTrace t :=
  (step_keeps_of_decView (P := fun s => DecInv s.dec ∧ DecTrace s ∧ ResultsTrace s)
    (fun hv ⟨hi, ht, hs⟩ => ⟨dec_eq_of_decView hv ▸ hi, ht.of_decView hv, hs.of_decView hv⟩)
    (fun s => ⟨decInv_reset, rfl, resultsTrace_effRst s⟩)
    (fun s hr ⟨_, _, hs⟩ => ⟨decInv_startAttempt s, rfl, resultsTrace_startAttempt hr hs⟩)
    (fun b _ hr ⟨hi, ht, hs⟩ =>
      ⟨decInv_takeByte b hi, decTrace_takeByte b hi ht, resultsTrace_takeByte b hr hi ht hs⟩) ⟨hi, ht, hs⟩ h).2.2

/-- An attempt in flight adds no result to `decode_all` of the bytes taken. -/
theorem ResultsTrace.decodeAll_eq {s : State} (h : ResultsTrace s) (hd : DecRefines s) :
    decodeAll s.hist.rxAll = s.hist.results := by
  cases hr : s.dec.decState.reading
  · rw [ResultsTrace, if_neg (by rw [hr]; decide)] at h
    exact h.decodeAll_eq
  · rw [ResultsTrace, if_pos hr] at h
    obtain ⟨before, hall, hcons⟩ := h
    obtain ⟨st, k, hp⟩ := hd.pending hr
    rw [hall, hcons, decodeAll_of_pending hp, List.append_nil]

end Sys2Proof.Machine
end

section
/-! SUPPORT. The invariant of the whole machine over every run from reset (00_scope.md R11), and the statement it gives. -/

namespace Sys2Proof.Machine

theorem inv_effRst (s : State) : Inv (effRst s) where
  enc := encInv_reset
  dec := decInv_reset
  crcFed := rfl
  fired := encTrace_effRst s
  taken := rfl
  results := resultsTrace_effRst s

theorem inv_reset (e : Env) : Inv { State.reset with env := e } := inv_effRst { State.reset with env := e }

theorem inv_step {s t : State} (hs : Inv s) (h : step s = .next t) : Inv t where
  enc := encInv_step hs.enc h
  dec := decInv_step hs.dec h
  crcFed := crcTrace_step hs.crcFed h
  fired := encTrace_step hs.enc hs.fired h
  taken := decTrace_step hs.dec hs.taken h
  results := resultsTrace_step hs.dec hs.taken hs.results h

theorem exists_step_eq_next (s : State) : ∃ t, step s = .next t := by
  unfold step
  rcases stimStep_cases (nextStim s.env).1 { s with env := (nextStim s.env).2 } with ⟨e, env, h⟩ | ⟨w, q, h⟩ | ⟨env, h⟩
  · exact ⟨_, h.trans (edgeStep_eq _ _)⟩
  · exact ⟨_, h⟩
  · exact ⟨_, h⟩

/-- What every step keeps, every run keeps. -/
theorem run_keeps {P : State → Prop} (hstep : ∀ {s t}, P s → step s = .next t → P t) (k : Nat) {s t : State} (hs : P s)
    (h : Host.Core.run Sys2Proof.core k s = .next t) : P t := by
  induction k generalizing s with
  | zero => cases h; exact hs
  | succ k ih =>
    obtain ⟨u, hu⟩ := exists_step_eq_next s
    exact ih (hstep hs hu) ((run_succ hu k).symm.trans h)

/-- The invariant holds after every run from reset, for every environment. -/
theorem inv_run {e : Env} {k : Nat} {s : State}
    (h : Host.Core.run Sys2Proof.core k { State.reset with env := e } = .next s) : Inv s :=
  run_keeps inv_step k (inv_reset e) h

end Sys2Proof.Machine

namespace Sys2Proof.Proofs

open Machine

/-- Settles O59: each clause is read off the machine's invariant, which every run from reset keeps. -/
theorem everyRunRefinesTheFunctions : Obligations.EveryRunRefinesTheFunctions := by
  intro e k s h
  have hinv := inv_run h
  have hdec := decRefines_of_decTrace hinv.dec hinv.taken
  exact ⟨hinv.crcFed, hinv.fired.txFired_eq_take, hdec, hinv.results.decodeAll_eq hdec⟩

end Sys2Proof.Proofs
end

section
/-! SUPPORT. The statements about 10_state.md R37 and R38 at reset and over a step, each read off a lemma of the
invariant. -/

namespace Sys2Proof.Proofs

open Machine

/-- Settles O51: the encoder's invariant looks at the encoder alone, and whatever `ENC` does keeps it. -/
theorem stepKeepsTheEncoderInvariant : Obligations.StepKeepsTheEncoderInvariant :=
  fun _ _ hs h => encInv_step hs h

/-- Settles O52: the decoder's invariant looks at the decoder alone, and a start and each byte taken keep it. -/
theorem stepKeepsTheDecoderInvariant : Obligations.StepKeepsTheDecoderInvariant :=
  fun _ _ hs h => decInv_step hs h

/-- Settles O50: the reset state meets each part of the invariant, and none of them looks at the environment. -/
theorem resetSatisfiesTheInvariant : Obligations.ResetSatisfiesTheInvariant := inv_reset

/-- Settles O22: each register and output by computation, the payload buffers by `zeroFrom_zeroPayload`. -/
theorem resetValues : Obligations.ResetValues :=
  have hzero (i : Index) (hi : i.toNat < 8) : zeroPayload.get i = 0x00 := zeroFrom_zeroPayload 0 i (Nat.zero_le _) hi
  ⟨rfl, ⟨rfl, rfl, rfl, hzero, rfl, rfl, rfl⟩, ⟨rfl, rfl, rfl, rfl, hzero, rfl, rfl, rfl⟩,
    ⟨rfl, rfl, rfl, rfl, rfl, rfl, rfl, rfl, rfl, rfl⟩⟩

end Sys2Proof.Proofs
end

section
/-! SUPPORT. What an operation of each unit leaves alone (10_state.md R20; 40_crc8.md R122; 60_exceptions.md R205). -/

namespace Sys2Proof.Machine

/-- What both branches of an operation's guard give, the operation gives. -/
theorem apply_ite_eq {α : Type} (f : State → α) {c : Prop} [Decidable c] {s t : State} {a : α} (ht : f t = a)
    (hs : f s = a) : f (if c then t else s) = a := by
  split
  · exact ht
  · exact hs

/-- An operation of `CRCU` touches nothing outside it and the record. -/
theorem effect_of_unit_crcu {i : Instr} (hu : i.unit = .crcu) (s : State) :
    (effect i s).enc = s.enc ∧ (effect i s).dec = s.dec ∧ (effect i s).env = s.env :=
  match i, hu with
  | .crcClr, _ | .crcUpd _, _ | .crcHold, _ => ⟨rfl, rfl, rfl⟩

/-- An operation of `ENC` touches nothing outside it and the record. -/
theorem effect_of_unit_enc {i : Instr} (hu : i.unit = .enc) (s : State) :
    (effect i s).crcu = s.crcu ∧ (effect i s).dec = s.dec ∧ (effect i s).env = s.env :=
  match i, hu with
  | .encWait, _ | .encIdle, _ => ⟨rfl, rfl, rfl⟩
  | .encLoad _ _ _, _ | .encLoadFault _, _ | .encTxStart, _ | .encTxId, _ | .encTxLen, _ | .encTxData, _ |
    .encTxCrc, _ =>
    ⟨apply_ite_eq State.crcu rfl rfl, apply_ite_eq State.dec rfl rfl, apply_ite_eq State.env rfl rfl⟩

/-- An operation of `DEC` that is no frame touches nothing outside it and the record. -/
theorem effect_of_unit_dec {i : Instr} (hu : i.unit = .dec) (hf : i.isFrame = false) (s : State) :
    (effect i s).crcu = s.crcu ∧ (effect i s).enc = s.enc ∧ (effect i s).env = s.env :=
  match i, hu, hf with
  | .decWait, _, _ | .decHold, _, _ => ⟨rfl, rfl, rfl⟩
  | .decStart, _, _ | .decSofOk, _, _ | .decSofBad _, _, _ | .decRdId _, _, _ | .decRdLenZero, _, _ |
    .decRdLenNz _, _, _ | .decRdLenBad _, _, _ | .decRdData _, _, _ | .decCrcOk _, _, _ | .decCrcBad _, _, _ =>
    ⟨apply_ite_eq State.crcu rfl rfl, apply_ite_eq State.enc rfl rfl, apply_ite_eq State.env rfl rfl⟩

/-- A reception touches nothing outside `DEC`, the record and the bytes left with the transport. -/
theorem receive_frame (w : List Byte) (s : State) :
    (receive w s).crcu = s.crcu ∧ (receive w s).enc = s.enc ∧
      (receive w s).env = { s.env with rxQueue := (receive w s).env.rxQueue } := by
  obtain ⟨hc, he, hv⟩ := deliver_frame w s
  exact ⟨hc, he, congrArg (fun v : Env => { v with rxQueue := (receive w s).env.rxQueue }) hv⟩

theorem eq_rst_of_unit_all {i : Instr} (hu : i.unit = .all) : i = .rst :=
  match i, hu with
  | .rst, _ => rfl

end Sys2Proof.Machine

namespace Sys2Proof.Proofs

open Machine

/-- Settles O36, unit by unit; of the operations of `DEC` a frame is a reception, which moves the transport's bytes. -/
theorem unitsShareNoRegister : Obligations.UnitsShareNoRegister := by
  intro i s t h
  obtain rfl := eq_effect_of_exec h
  cases hu : i.unit with
  | all =>
    obtain rfl := eq_rst_of_unit_all hu
    exact ⟨nofun, nofun, nofun, fun _ => rfl, rfl, rfl⟩
  | crcu =>
    obtain ⟨he, hd, hv⟩ := effect_of_unit_crcu hu s
    exact ⟨fun _ => ⟨he, hd⟩, nofun, nofun, fun _ => hv, congrArg Env.stims hv, congrArg Env.txLine hv⟩
  | enc =>
    obtain ⟨hc, hd, hv⟩ := effect_of_unit_enc hu s
    exact ⟨nofun, fun _ => ⟨hc, hd⟩, nofun, fun _ => hv, congrArg Env.stims hv, congrArg Env.txLine hv⟩
  | dec =>
    cases hf : i.isFrame with
    | false =>
      obtain ⟨hc, he, hv⟩ := effect_of_unit_dec hu hf s
      exact ⟨nofun, nofun, fun _ => ⟨hc, he⟩, fun _ => hv, congrArg Env.stims hv, congrArg Env.txLine hv⟩
    | true =>
      rw [effect_of_isFrame hf]
      obtain ⟨hc, he, hv⟩ := receive_frame (encode i) s
      exact ⟨nofun, nofun, fun _ => ⟨hc, he⟩, nofun, by rw [hv], by rw [hv]⟩

end Sys2Proof.Proofs
end

section
/-! SUPPORT. No operation reads the record (10_state.md R20): with another record everything else comes out the same. -/

namespace Sys2Proof.Machine

/-- What `f` gives with another record differs in the record alone. -/
def RecordBlind (f : State → Host.Outcome State Fault Refusal) : Prop :=
  ∀ (s t : State) (h : History), f s = .next t →
    ∃ h' : History, f { s with hist := h } = .next { t with hist := h' }

/-- An operation that is no frame is guarded by the registers alone, and its writes read them alone. -/
theorem effect_withHist_of_not_isFrame {i : Instr} (hf : i.isFrame = false) (s : State) (h : History) :
    ∃ h', effect i { s with hist := h } = { effect i s with hist := h' } := by
  cases i
  case frameL0 | frameL1 | frameL2 | frameL3 | frameL4 | frameL5 | frameL6 | frameL7 | frameL8 => cases hf
  case rst | crcClr | crcUpd | crcHold | encWait | encIdle | decWait | decHold => exact ⟨_, rfl⟩
  all_goals
    simp only [effect, effEncLoad, effEncLoadFault, effEncTxStart, effEncTxId, effEncTxLen, effEncTxData, effEncTxCrc,
      effDecStart, effDecSofOk, effDecSofBad, effDecRdId, effDecRdLenZero, effDecRdLenNz, effDecRdLenBad, effDecRdData,
      effDecCrcOk, effDecCrcBad]
    split <;> exact ⟨_, rfl⟩

theorem isFrame_selectDecByte (st : DecState) (crc b : Byte) : (selectDecByte st crc b).isFrame = false := by
  cases st <;> simp only [selectDecByte]
  case awaitStart | readChecksum => split <;> rfl
  case readLen =>
    split
    · rfl
    · split <;> rfl
  case decIdle | readId | readData | accepted | rejected => rfl

theorem takeByte_eq_effect (b : Byte) (s : State) :
    takeByte b s = effect (selectDecByte s.dec.decState s.dec.decCrc b) s :=
  eq_effect_of_exec (exec_selectDecByte b s)

theorem takeByte_withHist (b : Byte) (s : State) (h : History) :
    ∃ h', takeByte b { s with hist := h } = { takeByte b s with hist := h' } := by
  rw [takeByte_eq_effect, takeByte_eq_effect]
  exact effect_withHist_of_not_isFrame (isFrame_selectDecByte _ _ b) s h

theorem deliver_withHist (w : List Byte) (s : State) (h : History) :
    ∃ h', deliver w { s with hist := h } = ({ (deliver w s).1 with hist := h' }, (deliver w s).2) := by
  induction w generalizing s h with
  | nil => exact ⟨h, rfl⟩
  | cons b w ih =>
    cases hr : s.dec.decState.reading
    · exact ⟨h, by rw [deliver_cons_not_reading hr, deliver_cons_not_reading (s := { s with hist := h }) hr]⟩
    · obtain ⟨h1, ht⟩ := takeByte_withHist b s h
      obtain ⟨h2, hw⟩ := ih (takeByte b s) h1
      exact ⟨h2, by rw [deliver_cons_reading hr, deliver_cons_reading (s := { s with hist := h }) hr, ht, hw]⟩

theorem receive_withHist (w : List Byte) (s : State) (h : History) :
    ∃ h', receive w { s with hist := h } = { receive w s with hist := h' } := by
  obtain ⟨h', hd⟩ := deliver_withHist w s h
  exact ⟨h', by rw [receive, hd]; rfl⟩

theorem recordBlind_exec (i : Instr) : RecordBlind (exec i) := by
  intro s t h ht
  obtain rfl := eq_effect_of_exec ht
  cases hf : i.isFrame with
  | false =>
    obtain ⟨h', he⟩ := effect_withHist_of_not_isFrame hf s h
    exact ⟨h', by rw [exec_eq_next, he]⟩
  | true =>
    obtain ⟨h', he⟩ := receive_withHist (encode i) s h
    exact ⟨h', by rw [exec_eq_next, effect_of_isFrame hf, effect_of_isFrame hf, he]⟩

theorem recordBlind_execAll (is : List Instr) : RecordBlind (execAll is) := by
  induction is with
  | nil =>
    intro s t h ht
    cases ht
    exact ⟨h, rfl⟩
  | cons i is ih =>
    intro s t h ht
    obtain ⟨h1, h1e⟩ := recordBlind_exec i s _ h (exec_eq_next i s)
    rw [execAll, exec_eq_next, andThen_next] at ht
    rw [execAll, h1e, andThen_next]
    exact ih _ t h1 ht

/-- The ports, the selection and the transport's side of an edge do not depend on the record. -/
theorem recordBlind_edgeStep (e : Edge) : RecordBlind (edgeStep e) :=
  fun s t h ht => recordBlind_execAll (selectedAt e s) (transport e s) t h ht

theorem recordBlind_recvStep : RecordBlind recvStep := by
  intro s t h ht
  unfold recvStep at ht ⊢
  cases hw : decodeWire s.env.rxQueue with
  | frame i rest =>
    simp only [hw] at ht ⊢
    exact recordBlind_exec i (withRxQueue rest s) t h ht
  | reject why =>
    simp only [hw] at ht ⊢
    cases ht
    obtain ⟨h', hr⟩ := receive_withHist s.env.rxQueue (withRxQueue [] s) h
    exact ⟨h', congrArg Host.Outcome.next hr⟩

/-- The host's act at a statement does not depend on the record. -/
theorem act_withHist (st : Stmt) (s : State) (h : History) : st.act { s with hist := h } = st.act s := by
  cases st <;> rfl

theorem recordBlind_stmtStep (st : Stmt) : RecordBlind (stmtStep st) := by
  intro s t h ht
  cases ha : st.act s with
  | drive p plan =>
    rw [stmtStep_drive ha] at ht
    rw [stmtStep_drive ((act_withHist st s h).trans ha)]
    exact recordBlind_edgeStep _ _ t h ht
  | look env =>
    rw [stmtStep_look ha] at ht
    rw [stmtStep_look ((act_withHist st s h).trans ha)]
    cases ht
    exact ⟨h, rfl⟩

theorem recordBlind_stimStep (x : Stim) : RecordBlind (stimStep x) := by
  cases x with
  | edge e => exact recordBlind_edgeStep e
  | recv => exact recordBlind_recvStep
  | feed bs =>
    intro s t h ht
    cases ht
    exact ⟨h, rfl⟩
  | stmt st => exact recordBlind_stmtStep st

theorem recordBlind_step : RecordBlind step :=
  fun s t h ht => recordBlind_stimStep _ { s with env := (nextStim s.env).2 } t h ht

end Sys2Proof.Machine

namespace Sys2Proof.Proofs

open Machine

/-- Settles O46: the step does not read the record, since no operation does. -/
theorem theRecordIsNeverRead : Obligations.TheRecordIsNeverRead := by
  intro s t h ht
  obtain ⟨h', hs⟩ := recordBlind_step s t h ht
  exact ⟨_, hs, rfl, rfl, rfl, rfl⟩

end Sys2Proof.Proofs
end

section
/-! SUPPORT. What the invariant says: 10_state.md R38 clause by clause, and how many bytes an attempt has consumed
(42_decoder.md R161, R179; 60_exceptions.md R208). -/

namespace Sys2Proof.Machine

/-! #### 10_state.md R38 -/

theorem decErr_eq_zero_iff {e : Option DecodeError} : decErr e = 0 ↔ e = none := by
  rcases e with - | - | - | - <;> decide

theorem decErr_eq_two_iff {e : Option DecodeError} : decErr e = 2 ↔ e = some .lengthOutOfRange := by
  rcases e with - | - | - | - <;> decide

theorem decErr_eq_three_iff {e : Option DecodeError} : decErr e = 3 ↔ e = some .checksumMismatch := by
  rcases e with - | - | - | - <;> decide

theorem DecInv.body {d : Dec} (h : DecInv d)
    (hs : d.decState = .readData ∨ d.decState = .readChecksum ∨ d.decState = .accepted) : DecBody d := by
  obtain ⟨-, hst⟩ := h
  rcases hs with hs | hs | hs <;> rw [hs] at hst
  · obtain ⟨-, -, hbody⟩ := hst; exact hbody
  · obtain ⟨-, -, hbody⟩ := hst; exact hbody
  · obtain ⟨-, -, hbody, -⟩ := hst; exact hbody

theorem DecInv.idx_eq_len {d : Dec} (h : DecInv d) (hs : d.decState = .readChecksum ∨ d.decState = .accepted) :
    d.decIdx.toNat = d.decLenR.toNat := by
  obtain ⟨-, hst⟩ := h
  rcases hs with hs | hs <;> rw [hs] at hst
  · obtain ⟨-, hidx, -⟩ := hst; exact hidx
  · obtain ⟨-, hidx, -⟩ := hst; exact hidx

theorem DecInv.decErrR_ne_none_iff {d : Dec} (h : DecInv d) : d.decErrR ≠ none ↔ d.decState = .rejected := by
  obtain ⟨-, hst⟩ := h
  cases hs : d.decState <;> rw [hs] at hst
  case rejected => exact ⟨fun _ => rfl, fun _ => hst.1⟩
  case decIdle => exact ⟨fun hn => absurd hst hn, nofun⟩
  case awaitStart | readId | readLen | readData | readChecksum | accepted =>
    exact ⟨fun hn => absurd hst.1 hn, nofun⟩

/-- The invariants of the two units give the clauses I1 to I8; a clause about one state is that state's case. -/
theorem rule38_of_inv {s : State} (he : EncInv s.enc) (hd : DecInv s.dec) : Rule38 s := by
  have hbody := hd.body
  have hidx := hd.idx_eq_len
  have herr := hd.decErrR_ne_none_iff
  obtain ⟨hlen, hi, henc⟩ := he
  obtain ⟨hle, hdec⟩ := hd
  exact {
    i1 := hlen
    i2 := ⟨hi, fun hs => by rw [hs] at henc; exact henc.1, fun hs => by rw [hs] at henc; exact henc.1⟩
    i3 := ⟨fun hs => by rw [hs] at henc; exact henc.2, fun hs => by rw [hs] at henc; exact henc.2,
      fun hs => by rw [hs] at henc; exact henc.2, fun hs => by rw [hs] at henc; exact henc.2⟩
    i4 := ⟨fun hs => (hbody hs).1, hle, fun hs => by rw [hs] at hdec; exact hdec.2.1, hidx⟩
    i5 := ⟨fun hs => by rw [hs] at hdec; obtain ⟨-, -, hcrc, -⟩ := hdec; exact hcrc, fun hs => (hbody hs).2.1⟩
    i6 := fun hs => by
      obtain ⟨-, -, hzero⟩ := hbody (.inr (.inr hs))
      rw [hidx (.inr hs)] at hzero
      rw [hs] at hdec
      obtain ⟨hnone, -, -, hrx⟩ := hdec
      exact ⟨hrx, decErr_eq_zero_iff.mpr hnone, hzero⟩
    i7 := (not_congr decErr_eq_zero_iff).trans herr
    i8 := fun hs => by
      rw [hs] at hdec
      obtain ⟨-, hlenBad, hcrcBad⟩ := hdec
      exact ⟨fun h2 => hlenBad (decErr_eq_two_iff.mp h2), fun h3 => hcrcBad (decErr_eq_three_iff.mp h3)⟩ }

/-! #### How many bytes an attempt consumes -/

theorem decodeTail_err {i len : Byte} {legal : len.toNat ≤ Config.maxLen} {d : List Byte} {e : DecodeError} {n : Nat}
    (h : decodeTail i len legal d = .done (.err e) n) : e = .checksumMismatch := by
  unfold decodeTail at h
  split at h
  · cases h
  · split at h
    · cases h
    · split at h <;> cases h
      rfl

/-- The bytes a failed attempt has consumed, by its failure (60_exceptions.md R208). -/
theorem decode_err_consumed {w : List Byte} {e : DecodeError} {n : Nat} (h : decode w = .done (.err e) n) :
    (e = .badStartByte ∧ n = 1) ∨ (e = .lengthOutOfRange ∧ n = 3) ∨
      (e = .checksumMismatch ∧ ∃ len : Byte, w[2]? = some len ∧ len.toNat ≤ 8 ∧ n = 4 + len.toNat) := by
  match w with
  | [] => cases h
  | b :: w1 =>
    by_cases hb : b = Config.start
    · subst hb
      match w1 with
      | [] => cases h
      | [_] => cases h
      | i :: len :: body =>
        by_cases legal : len.toNat ≤ Config.maxLen
        · rw [decode_of_legal legal] at h
          obtain ⟨hn, -⟩ := decodeTail_done_bounds h
          exact .inr (.inr ⟨decodeTail_err h, len, rfl, legal, hn⟩)
        · rw [decode_of_illegal (Nat.not_le.mp legal)] at h
          cases h
          exact .inr (.inl ⟨rfl, rfl⟩)
    · rw [decode_of_badStart hb] at h
      cases h
      exact .inl ⟨rfl, rfl⟩

/-- The bytes taken by an attempt that has been rejected, by its failure. -/
theorem rxTaken_of_rejected {s : State} (ht : DecTrace s) (hs : s.dec.decState = .rejected) :
    (s.dec.decErrR = some .badStartByte ∧ s.hist.rxTaken.length = 1) ∨
      (s.dec.decErrR = some .lengthOutOfRange ∧ s.hist.rxTaken.length = 3) ∨
      (s.dec.decErrR = some .checksumMismatch ∧ ∃ len : Byte, s.hist.rxTaken[2]? = some len ∧ len.toNat ≤ 8 ∧
        s.hist.rxTaken.length = 4 + len.toNat) := by
  rw [DecTrace, hs] at ht
  obtain ⟨e, he, hd⟩ := ht
  rw [he, Option.some_inj, Option.some_inj, Option.some_inj]
  exact decode_err_consumed hd

theorem rxTaken_length_of_accepted {s : State} (hi : DecInv s.dec) (ht : DecTrace s) (hs : s.dec.decState = .accepted) :
    s.hist.rxTaken.length = 4 + s.dec.decLenR.toNat := by
  obtain ⟨hl, -⟩ := hi.body (.inr (.inr hs))
  rw [DecTrace, hs] at ht
  rw [ht]
  exact length_encode_ofPayload _ _ hl

/-- An attempt takes twelve bytes at most (42_decoder.md R179). -/
theorem rxTaken_length_le {s : State} (hi : DecInv s.dec) (ht : DecTrace s) : s.hist.rxTaken.length ≤ 12 := by
  have hbytes := s.dec.decDataR.length_upTo_le s.dec.decIdx.toNat
  rw [Config.maxLen] at hbytes
  cases hs : s.dec.decState
  case accepted =>
    obtain ⟨hl, -⟩ := hi.body (.inr (.inr hs))
    rw [rxTaken_length_of_accepted hi ht hs]
    omega
  case rejected =>
    rcases rxTaken_of_rejected ht hs with ⟨-, hn⟩ | ⟨-, hn⟩ | ⟨-, len, -, hl, hn⟩ <;> omega
  case decIdle | awaitStart | readId | readLen =>
    rw [DecTrace, hs] at ht
    rw [ht]
    simp
  case readData | readChecksum =>
    rw [DecTrace, hs] at ht
    rw [ht]
    simp only [List.length_cons]
    omega

end Sys2Proof.Machine

namespace Sys2Proof.Proofs

open Machine

/-- Settles O57: R38 from the registers' part of the invariant, the rest from the bytes taken. -/
theorem invariantSaysWhereAnAttemptStands : Obligations.InvariantSaysWhereAnAttemptStands := by
  intro s h
  have hrefines := decRefines_of_decTrace h.dec h.taken
  refine ⟨rule38_of_inv h.enc h.dec, hrefines, rxTaken_length_of_accepted h.dec h.taken, fun hs => ?_,
    rxTaken_length_le h.dec h.taken, h.results.decodeAll_eq hrefines⟩
  rcases rxTaken_of_rejected h.taken hs with ⟨he, hn⟩ | ⟨he, hn⟩ | ⟨he, len, hlen, -, hn⟩ <;> rw [he]
  · exact ⟨fun _ => hn, nofun, nofun⟩
  · exact ⟨nofun, fun _ => hn, nofun⟩
  · exact ⟨nofun, nofun, fun _ => ⟨len, hlen, hn⟩⟩

/-- Settles O58: every run from reset keeps the invariant, which gives R38. -/
theorem everyRunKeepsRule38 : Obligations.EveryRunKeepsRule38 := by
  intro e k s h
  have hinv := inv_run h
  exact rule38_of_inv hinv.enc hinv.dec

end Sys2Proof.Proofs
end

section
/-! SUPPORT. The parts of the state, one for each unit (10_state.md R20): what reads and writes one part commutes with
what reads and writes another. -/

namespace Sys2Proof.Machine

/-- A part of the state, read by `get` and written by `put`. -/
structure StatePart (α : Type) where
  get     : State → α
  put     : α → State → State
  get_put : ∀ a s, get (put a s) = a
  put_get : ∀ s, put (get s) s = s
  put_put : ∀ a b s, put a (put b s) = put a s

/-- `f` reads and writes the part `p` alone. -/
def StatePart.Local {α : Type} (p : StatePart α) (f : State → State) : Prop :=
  ∃ g : α → α, ∀ s, f s = p.put (g (p.get s)) s

/-- Two parts with nothing in common. -/
structure StatePart.Disjoint {α β : Type} (p : StatePart α) (q : StatePart β) : Prop where
  get_put_left  : ∀ b s, p.get (q.put b s) = p.get s
  get_put_right : ∀ a s, q.get (p.put a s) = q.get s
  put_comm      : ∀ a b s, p.put a (q.put b s) = q.put b (p.put a s)

section

variable {α β : Type} {p : StatePart α} {q : StatePart β} {f g : State → State}

theorem StatePart.Local.comm (hd : p.Disjoint q) (hf : p.Local f) (hg : q.Local g) (s : State) : f (g s) = g (f s) := by
  obtain ⟨f', hf⟩ := hf
  obtain ⟨g', hg⟩ := hg
  rw [hg, hf, hf, hg, hd.get_put_left, hd.get_put_right, hd.put_comm]

/-- The part written depends on the part read alone. -/
theorem StatePart.Local.get_congr (hf : p.Local f) {s t : State} (h : p.get t = p.get s) :
    p.get (f t) = p.get (f s) := by
  obtain ⟨f', hf⟩ := hf
  rw [hf, hf, p.get_put, p.get_put, h]

/-- A part apart from the one written stays as it was. -/
theorem StatePart.Local.get_of_disjoint (hf : p.Local f) (hd : p.Disjoint q) (s : State) : q.get (f s) = q.get s := by
  obtain ⟨f', hf⟩ := hf
  rw [hf, hd.get_put_right]

theorem StatePart.local_id (p : StatePart α) : p.Local fun s => s := ⟨fun a => a, fun s => (p.put_get s).symm⟩

theorem StatePart.Local.comp (hf : p.Local f) (hg : p.Local g) : p.Local fun s => f (g s) := by
  obtain ⟨f', hf⟩ := hf
  obtain ⟨g', hg⟩ := hg
  exact ⟨fun a => f' (g' a), fun s => by simp only [hg, hf, p.get_put, p.put_put]⟩

theorem StatePart.Local.ite (c : α → Prop) [DecidablePred c] (hf : p.Local f) (hg : p.Local g) :
    p.Local fun s => if c (p.get s) then f s else g s := by
  obtain ⟨f', hf⟩ := hf
  obtain ⟨g', hg⟩ := hg
  refine ⟨fun a => if c a then f' a else g' a, fun s => ?_⟩
  by_cases h : c (p.get s)
  · simp only [if_pos h, hf]
  · simp only [if_neg h, hg]

/-- `f` run on a blank state that holds the part: enough to see that it acts on the part alone. -/
theorem StatePart.local_of_blank (h : ∀ s, f s = p.put (p.get (f (p.put (p.get s) State.reset))) s) : p.Local f :=
  ⟨fun a => p.get (f (p.put a State.reset)), h⟩

/-- A guard that reads the part alone, on a state and on one with the same part. -/
theorem StatePart.ite_eq_put {c c' : Prop} [Decidable c] [Decidable c'] {s t u t' u' : State} (hc : c' ↔ c)
    (ht : t = p.put (p.get t') s) (hu : u = p.put (p.get u') s) :
    (if c then t else u) = p.put (p.get (if c' then t' else u')) s := by
  rw [if_congr hc rfl rfl]
  split
  · exact ht
  · exact hu

end

/-! #### The parts of the three units -/

/-- The register of `CRCU` and its part of the record. -/
def crcuPart : StatePart (Crcu × List Byte) where
  get s := (s.crcu, s.hist.crcFed)
  put v s := { s with crcu := v.1, hist := { s.hist with crcFed := v.2 } }
  get_put _ _ := rfl
  put_get _ := rfl
  put_put _ _ _ := rfl

/-- The registers of `ENC` and its part of the record. -/
def encPart : StatePart (Enc × List Frame × List Byte) where
  get := encView
  put v s := { s with enc := v.1, hist := { s.hist with loaded := v.2.1, txFired := v.2.2 } }
  get_put _ _ := rfl
  put_get _ := rfl
  put_put _ _ _ := rfl

/-- The registers of `DEC` and its part of the record. -/
def decPart : StatePart (Dec × List Byte × List Byte × List Result) where
  get := decView
  put v s := { s with
    dec := v.1, hist := { s.hist with rxTaken := v.2.1, rxAll := v.2.2.1, results := v.2.2.2 } }
  get_put _ _ := rfl
  put_get _ := rfl
  put_put _ _ _ := rfl

/-- The part of `DEC` and the transport's `rx` stream, which a frame moves. -/
def decRxPart : StatePart ((Dec × List Byte × List Byte × List Result) × List Byte) where
  get s := (decView s, s.env.rxQueue)
  put v s := withRxQueue v.2 (decPart.put v.1 s)
  get_put _ _ := rfl
  put_get _ := rfl
  put_put _ _ _ := rfl

/-- The environment. -/
def envPart : StatePart Env where
  get s := s.env
  put v s := { s with env := v }
  get_put _ _ := rfl
  put_get _ := rfl
  put_put _ _ _ := rfl

theorem crcuPart_disjoint_encPart : crcuPart.Disjoint encPart := ⟨fun _ _ => rfl, fun _ _ => rfl, fun _ _ _ => rfl⟩

theorem crcuPart_disjoint_decRxPart : crcuPart.Disjoint decRxPart :=
  ⟨fun _ _ => rfl, fun _ _ => rfl, fun _ _ _ => rfl⟩

theorem encPart_disjoint_decRxPart : encPart.Disjoint decRxPart :=
  ⟨fun _ _ => rfl, fun _ _ => rfl, fun _ _ _ => rfl⟩

theorem decPart_disjoint_envPart : decPart.Disjoint envPart := ⟨fun _ _ => rfl, fun _ _ => rfl, fun _ _ _ => rfl⟩

theorem StatePart.Local.decRx {f : State → State} (hf : decPart.Local f) : decRxPart.Local f := by
  obtain ⟨f', hf⟩ := hf
  exact ⟨fun v => (f' v.1, v.2), hf⟩

end Sys2Proof.Machine
end

section
/-! SUPPORT. Each instruction acts on the part of its unit, a frame on the `rx` stream too, and so instructions of
different units commute (20_memory.md R71). -/

namespace Sys2Proof.Machine

theorem local_effect_crcu {i : Instr} (hu : i.unit = .crcu) : crcuPart.Local (effect i) :=
  match i, hu with
  | .crcClr, _ | .crcUpd _, _ | .crcHold, _ => StatePart.local_of_blank fun _ => rfl

theorem local_effect_enc {i : Instr} (hu : i.unit = .enc) : encPart.Local (effect i) :=
  match i, hu with
  | .encWait, _ | .encIdle, _ => encPart.local_id
  | .encLoad _ _ _, _ | .encLoadFault _, _ | .encTxStart, _ | .encTxId, _ | .encTxLen, _ | .encTxData, _ |
    .encTxCrc, _ => StatePart.local_of_blank fun _ => StatePart.ite_eq_put Iff.rfl rfl rfl

theorem local_effect_dec {i : Instr} (hu : i.unit = .dec) (hf : i.isFrame = false) : decPart.Local (effect i) :=
  match i, hu, hf with
  | .decWait, _, _ | .decHold, _, _ => decPart.local_id
  | .decStart, _, _ | .decSofOk, _, _ | .decSofBad _, _, _ | .decRdId _, _, _ | .decRdLenZero, _, _ |
    .decRdLenNz _, _, _ | .decRdLenBad _, _, _ | .decRdData _, _, _ | .decCrcOk _, _, _ | .decCrcBad _, _, _ =>
    StatePart.local_of_blank fun _ => StatePart.ite_eq_put Iff.rfl rfl rfl

theorem unit_selectDecByte (st : DecState) (crc b : Byte) : (selectDecByte st crc b).unit = .dec := by
  cases st <;> simp only [selectDecByte]
  case awaitStart | readChecksum => split <;> rfl
  case readLen =>
    split
    · rfl
    · split <;> rfl
  case decIdle | readId | readData | accepted | rejected => rfl

/-- Taking a byte is an operation that the registers of `DEC` select. -/
theorem local_takeByte (b : Byte) : decPart.Local (takeByte b) := by
  refine StatePart.local_of_blank fun s => ?_
  have hop := local_effect_dec (unit_selectDecByte s.dec.decState s.dec.decCrc b) (isFrame_selectDecByte _ _ b)
  obtain ⟨g, hg⟩ := hop
  have hblank : takeByte b (decPart.put (decPart.get s) State.reset) = decPart.put (g (decPart.get s)) State.reset :=
    (takeByte_eq_effect b _).trans (hg _)
  rw [hblank, takeByte_eq_effect, hg, decPart.get_put]

theorem takeByte_withEnv (b : Byte) (s : State) (v : Env) :
    takeByte b { s with env := v } = { takeByte b s with env := v } :=
  (local_takeByte b).comm decPart_disjoint_envPart (StatePart.local_of_blank (f := envPart.put v) fun _ => rfl) s

theorem receive_cons_reading {s : State} (h : s.dec.decState.reading = true) (b : Byte) (w : List Byte) :
    receive (b :: w) s = receive w (takeByte b s) := by
  rw [receive, deliver_cons_reading h, receive]

/-- A reception outside the reading states leaves its bytes with the transport. -/
theorem receive_not_reading {s : State} (h : s.dec.decState.reading = false) (w : List Byte) :
    receive w s = withRxQueue (w ++ s.env.rxQueue) s := by
  rw [receive, deliver_not_reading h]; rfl

theorem receive_cons (b : Byte) (w : List Byte) (s : State) : receive (b :: w) s =
    if s.dec.decState.reading then receive w (takeByte b s) else withRxQueue (b :: w ++ s.env.rxQueue) s := by
  split
  · next h => exact receive_cons_reading h b w
  · next h => exact receive_not_reading (Bool.eq_false_of_not_eq_true h) (b :: w)

theorem local_receive (w : List Byte) : decRxPart.Local (receive w) := by
  induction w with
  | nil => exact decRxPart.local_id
  | cons b w ih =>
    rw [funext (receive_cons b w)]
    exact (ih.comp (local_takeByte b).decRx).ite (fun v => v.1.1.decState.reading = true)
      (StatePart.local_of_blank (f := fun s => withRxQueue (b :: w ++ s.env.rxQueue) s) fun _ => rfl)

/-- Every instruction of `DEC`, a frame too, acts on the part of `DEC` and the transport's `rx` stream. -/
theorem local_effect_decRx {i : Instr} (hu : i.unit = .dec) : decRxPart.Local (effect i) := by
  cases hf : i.isFrame with
  | false => exact (local_effect_dec hu hf).decRx
  | true =>
    rw [funext (effect_of_isFrame hf)]
    exact local_receive _

/-- Instructions of different units commute (20_memory.md R71). -/
theorem effect_comm {i j : Instr} (s : State) (hij : i.unit ≠ j.unit) (hi : i.unit ≠ .all) (hj : j.unit ≠ .all) :
    effect i (effect j s) = effect j (effect i s) := by
  cases hu : i.unit <;> cases hv : j.unit <;> rw [hu] at hij hi <;> rw [hv] at hij hj
  case all.all | all.crcu | all.enc | all.dec => exact absurd rfl hi
  case crcu.all | enc.all | dec.all => exact absurd rfl hj
  case crcu.crcu | enc.enc | dec.dec => exact absurd rfl hij
  case crcu.enc => exact (local_effect_crcu hu).comm crcuPart_disjoint_encPart (local_effect_enc hv) s
  case crcu.dec => exact (local_effect_crcu hu).comm crcuPart_disjoint_decRxPart (local_effect_decRx hv) s
  case enc.dec => exact (local_effect_enc hu).comm encPart_disjoint_decRxPart (local_effect_decRx hv) s
  case enc.crcu => exact ((local_effect_crcu hv).comm crcuPart_disjoint_encPart (local_effect_enc hu) s).symm
  case dec.crcu => exact ((local_effect_crcu hv).comm crcuPart_disjoint_decRxPart (local_effect_decRx hu) s).symm
  case dec.enc => exact ((local_effect_enc hv).comm encPart_disjoint_decRxPart (local_effect_decRx hu) s).symm

end Sys2Proof.Machine

namespace Sys2Proof.Proofs

open Machine

/-- Settles O37: the instructions of different units act on disjoint parts of the state. -/
theorem unitOrderIsIrrelevant : Obligations.UnitOrderIsIrrelevant := by
  intro i j s hij hi hj
  simp only [exec_eq_next, andThen_next]
  rw [effect_comm s hij hi hj]

end Sys2Proof.Proofs
end

section
/-! SUPPORT. What one edge without reset does: to the environment, to the encoder's part of the state and to the bytes
taken (20_memory.md R60 to R63). -/

namespace Sys2Proof.Machine

/-! #### The ports at an edge -/

/-- Without reset and loopback the transport counts a byte as taken exactly at `rx_fire`. -/
theorem transportGives_eq_rxFire {e : Edge} (hr : e.host.rst = false) (hl : e.loopback = false) (s : State) :
    transportGives e s = rxFire (edgePorts e s) s := by
  simp [transportGives, rxFire, hr, hl]

/-- Without reset the transport counts a byte as received exactly at `tx_fire`. -/
theorem transportTakes_eq_txFire {e : Edge} (hr : e.host.rst = false) (s : State) :
    transportTakes e s = txFire (edgePorts e s) s := by
  simp [transportTakes, txFire, hr]

/-- Without loopback the byte offered on `rx` is the head of the transport's stream (20_memory.md R63). -/
theorem rxQueue_of_rxValid {e : Edge} (hl : e.loopback = false) {s : State} (h : (edgePorts e s).rxValid = true) :
    s.env.rxQueue = (edgePorts e s).rxData :: s.env.rxQueue.tail := by
  cases hq : s.env.rxQueue with
  | nil => simp [edgePorts, hl, hq] at h
  | cons b q =>
    simp only [edgePorts, hl, hq, Bool.false_eq_true, if_false] at h ⊢
    rw [if_pos h, List.tail_cons]

/-! #### What each unit does at an edge -/

theorem unit_selectEnc (st : EncState) (p : Ports) : (selectEnc st p).unit = .enc := by
  cases st <;> simp only [selectEnc]
  case encIdle =>
    split
    · split <;> rfl
    · rfl
  all_goals split <;> rfl

/-- An encoder that is neither offered a frame in `EncIdle` nor accepted outside it does nothing. -/
theorem effect_selectEnc_eq_self {st : EncState} {p : Ports} (hidle : st = .encIdle → p.host.encValid = false)
    (hbusy : st ≠ .encIdle → p.txReady = false) (s : State) : effect (selectEnc st p) s = s := by
  cases st
  case encIdle => rw [selectEnc, hidle rfl]; rfl
  all_goals
    rw [selectEnc, hbusy (by decide)]
    rfl

/-- Exactly the byte on offer fires, and exactly when the encoder offers one and it is accepted. -/
theorem txFired_effect_selectEnc (p : Ports) (s : State) : (effect (selectEnc s.enc.encState p) s).hist.txFired =
    if txValid s.enc.encState && p.txReady then s.hist.txFired ++ [txData s.enc] else s.hist.txFired := by
  cases hs : s.enc.encState
  case encIdle =>
    rw [← hs]
    rcases effect_selectEnc_outcome p s with hu | ⟨-, -, hu⟩ | ⟨-, hu⟩ | ⟨hn, -⟩
    · rw [hu, hs]; rfl
    · rw [hu, hs]; rfl
    · rw [hu, hs]; rfl
    · exact absurd hs hn
  all_goals
    rw [selectEnc]
    cases p.txReady
    · rfl
    · exact congrArg (fun t : State => t.hist.txFired) (if_pos hs)

/-- What `CRCU` and `ENC` do one after the other, seen from the environment, from `DEC` and from `ENC`. -/
theorem effect_selectEnc_selectCrcu (st : EncState) (p : Ports) (h : HostPorts) (s : State) :
    (effect (selectEnc st p) (effect (selectCrcu h) s)).env = s.env ∧
      decView (effect (selectEnc st p) (effect (selectCrcu h) s)) = decView s ∧
      encView (effect (selectEnc st p) (effect (selectCrcu h) s)) = encView (effect (selectEnc st p) s) := by
  have hlocal := local_effect_enc (unit_selectEnc st p)
  obtain ⟨-, -, hcrcu, -⟩ := effect_selectCrcu_frame h s
  obtain ⟨-, -, henc⟩ := effect_of_unit_enc (unit_selectEnc st p) (effect (selectCrcu h) s)
  have hdec := hlocal.get_of_disjoint encPart_disjoint_decRxPart (effect (selectCrcu h) s)
  exact ⟨henc.trans hcrcu, (congrArg Prod.fst hdec).trans (decView_effect_selectCrcu h s),
    hlocal.get_congr (encView_effect_selectCrcu h s)⟩

/-- The operation of `DEC` selected in `s`, performed after those of the other units: one byte taken, a start, or
nothing. -/
theorem effect_selectDec {s u : State} (hd : u.dec = s.dec) (p : Ports) :
    effect (selectDec s.dec.decState s.dec.decCrc p) u =
      if s.dec.decState.reading then (if p.rxValid then takeByte p.rxData u else u)
      else if p.host.decStart then startAttempt u else u := by
  rw [← hd]
  exact (eq_effect_of_exec (exec_selectDec u p)).symm

/-- What `DEC` does at an edge, seen from the environment, from `ENC` and from the bytes taken. -/
theorem effect_selectDec_views {s u : State} (hd : decView u = decView s) (p : Ports) :
    (effect (selectDec s.dec.decState s.dec.decCrc p) u).env = u.env ∧
      encView (effect (selectDec s.dec.decState s.dec.decCrc p) u) = encView u ∧
      (effect (selectDec s.dec.decState s.dec.decCrc p) u).hist.rxAll =
        if p.rxValid && s.dec.decState.reading then s.hist.rxAll ++ [p.rxData] else s.hist.rxAll := by
  have hall : u.hist.rxAll = s.hist.rxAll := congrArg (fun v => v.2.2.1) hd
  rw [effect_selectDec (dec_eq_of_decView hd)]
  cases hr : s.dec.decState.reading with
  | true =>
    cases p.rxValid
    · exact ⟨rfl, rfl, hall⟩
    · obtain ⟨-, -, henv⟩ := takeByte_frame p.rxData u
      obtain ⟨-, htaken, -⟩ := takeByte_attempt (s := u) (by rw [dec_eq_of_decView hd, hr]) p.rxData
      exact ⟨henv, encView_takeByte p.rxData u, by rw [← hall]; exact htaken⟩
  | false =>
    rw [Bool.and_false]
    cases p.host.decStart <;> exact ⟨rfl, rfl, hall⟩

/-- A planned edge without reset: the environment is the transport's side of it, the encoder's part is what `ENC` does,
and the byte on offer joins the bytes taken exactly at `rx_fire`. -/
theorem step_edge_views {s t : State} {e : Edge} {rest : List Stim} (hstims : s.env.stims = .edge e :: rest)
    (hr : e.host.rst = false) (h : step s = .next t) :
    t.env = { (transport e s).env with stims := rest } ∧
      encView t = encView (effect (selectEnc s.enc.encState (edgePorts e s)) s) ∧
      t.hist.rxAll =
        if rxFire (edgePorts e s) s then s.hist.rxAll ++ [(edgePorts e s).rxData] else s.hist.rxAll := by
  have hfire : rxFire (edgePorts e s) s = ((edgePorts e s).rxValid && s.dec.decState.reading) := by
    rw [rxFire, edgePorts_host, hr]; rfl
  rw [step_edge hstims, edgeStep_eq, hr] at h
  cases h
  obtain ⟨henv, hdec, henc⟩ :=
    effect_selectEnc_selectCrcu s.enc.encState (edgePorts e s) e.host (transport e (withStims rest s))
  obtain ⟨henv', henc', hall⟩ := effect_selectDec_views (s := s) hdec (edgePorts e s)
  have htransport := (local_effect_enc (unit_selectEnc s.enc.encState (edgePorts e s))).get_congr
    (s := s) (t := transport e (withStims rest s)) rfl
  rw [hfire]
  exact ⟨henv'.trans henv, henc'.trans (henc.trans htransport), hall⟩

/-- At an edge without reset exactly the byte on offer passes on `tx`, exactly at `tx_fire` (20_memory.md R60). -/
theorem step_edge_tx {s t : State} {e : Edge} {rest : List Stim} (hstims : s.env.stims = .edge e :: rest)
    (hr : e.host.rst = false) (h : step s = .next t) :
    if txFire (edgePorts e s) s then
      t.env.txLine = s.env.txLine ++ [txData s.enc] ∧ t.env.txSent = s.env.txSent ++ [txData s.enc] ∧
        t.hist.txFired = s.hist.txFired ++ [txData s.enc]
    else t.env.txLine = s.env.txLine ∧ t.env.txSent = s.env.txSent ∧ t.hist.txFired = s.hist.txFired := by
  obtain ⟨henv, henc, -⟩ := step_edge_views hstims hr h
  have hfired := (congrArg (fun v => v.2.2) henc).trans (txFired_effect_selectEnc (edgePorts e s) s)
  have hfire : (txValid s.enc.encState && (edgePorts e s).txReady) = txFire (edgePorts e s) s := by
    rw [txFire, edgePorts_host, hr]; rfl
  rw [hfire] at hfired
  simp only [henv, transport_txLine, transport_txSent, transportTakes_eq_txFire hr]
  split
  · next hf => exact ⟨rfl, rfl, hfired.trans (if_pos hf)⟩
  · next hf => exact ⟨rfl, rfl, hfired.trans (if_neg hf)⟩

/-- At an edge without reset and loopback the transport's stream loses its head exactly at `rx_fire`, and the head is
the byte taken (20_memory.md R61, R63). -/
theorem step_edge_rx {s t : State} {e : Edge} {rest : List Stim} (hstims : s.env.stims = .edge e :: rest)
    (hr : e.host.rst = false) (hl : e.loopback = false) (h : step s = .next t) :
    if rxFire (edgePorts e s) s then ∃ b, s.env.rxQueue = b :: t.env.rxQueue ∧ t.hist.rxAll = s.hist.rxAll ++ [b]
    else t.env.rxQueue = s.env.rxQueue ∧ t.hist.rxAll = s.hist.rxAll := by
  obtain ⟨henv, -, hall⟩ := step_edge_views hstims hr h
  simp only [henv, hall, transport_rxQueue, transportGives_eq_rxFire hr hl]
  split
  · next hf =>
    simp only [rxFire, Bool.and_eq_true] at hf
    obtain ⟨⟨-, hvalid⟩, -⟩ := hf
    exact ⟨_, rxQueue_of_rxValid hl hvalid, rfl⟩
  · exact ⟨rfl, rfl⟩

/-- An offered byte that does not fire at an edge without reset is not accepted, so `ENC` waits (41_encoder.md R140). -/
theorem step_edge_enc_of_not_txFire {s t : State} {e : Edge} {rest : List Stim}
    (hstims : s.env.stims = .edge e :: rest) (hr : e.host.rst = false) (hvalid : txValid s.enc.encState = true)
    (hfire : txFire (edgePorts e s) s = false) (h : step s = .next t) : t.enc = s.enc := by
  obtain ⟨-, henc, -⟩ := step_edge_views hstims hr h
  have hready : (edgePorts e s).txReady = false := by simpa [txFire, hr, hvalid] using hfire
  have hbusy : s.enc.encState ≠ .encIdle := fun hi => by rw [hi] at hvalid; cases hvalid
  rw [effect_selectEnc_eq_self (fun hi => absurd hi hbusy) (fun _ => hready)] at henc
  exact enc_eq_of_encView henc

end Sys2Proof.Machine

namespace Sys2Proof.Proofs

open Machine

/-- Settles O42: a byte not accepted leaves `ENC` and the transport's side of `tx` as they were. -/
theorem offeredByteIsStable : Obligations.OfferedByteIsStable := by
  intro s t e rest hstims hr hvalid hfire h
  have henc := step_edge_enc_of_not_txFire hstims hr hvalid hfire h
  have htx := step_edge_tx hstims hr h
  rw [hfire] at htx
  exact ⟨henc, by rw [← hvalid, ← henc]; rfl, congrArg txData henc, htx⟩

/-- Settles O44: on each port the transport's side and the record of the unit move together. -/
theorem bytesMoveOnceInOrder : Obligations.BytesMoveOnceInOrder := by
  intro s t e rest hstims hr hl h
  have hrx := step_edge_rx hstims hr hl h
  rw [← and_assoc]
  refine ⟨?_, step_edge_tx hstims hr h⟩
  split at hrx
  · next hf =>
    obtain ⟨b, hqueue, hall⟩ := hrx
    simp [hqueue, hall, hf]
  · next hf =>
    obtain ⟨hqueue, hall⟩ := hrx
    simp [hqueue, hall, hf]

end Sys2Proof.Proofs
end

section
/-! SUPPORT. Outside `EncIdle` the frame port changes nothing at an edge (20_memory.md R62, R74). -/

namespace Sys2Proof.Machine

/-- The edge `e` with the frame port of the host ports `h`. -/
def Edge.withFramePort (e : Edge) (h : HostPorts) : Edge :=
  { e with host := { e.host with
      encValid := h.encValid, encId := h.encId, encLen := h.encLen, encDataIn := h.encDataIn } }

theorem edgePorts_withFramePort (e : Edge) (h : HostPorts) (s : State) :
    edgePorts (e.withFramePort h) s = { edgePorts e s with host := (e.withFramePort h).host } := by
  unfold edgePorts
  show (if e.loopback then _ else _) = _
  cases e.loopback
  · cases s.env.rxQueue <;> rfl
  · rfl

/-- The transport does not see the frame port. -/
theorem transport_withFramePort (e : Edge) (h : HostPorts) (s : State) :
    transport (e.withFramePort h) s = transport e s := by
  simp only [transport, transportGives, transportTakes, txFire, edgePorts_withFramePort, edgePorts_host]
  rfl

/-- Outside `EncIdle` the operation of `ENC` is selected by `tx_ready` alone (30_encoding.md R90). -/
theorem selectEnc_of_not_idle {st : EncState} (hs : st ≠ .encIdle) (p : Ports) (h : HostPorts) :
    selectEnc st { p with host := h } = selectEnc st p := by
  cases st
  case encIdle => exact absurd rfl hs
  all_goals rfl

theorem selectDec_withFramePort (st : DecState) (crc : Byte) (p : Ports) (e : Edge) (h : HostPorts)
    (hp : p.host = e.host) : selectDec st crc { p with host := (e.withFramePort h).host } = selectDec st crc p := by
  simp only [selectDec, hp]
  rfl

theorem selectedAt_withFramePort {s : State} (hs : s.enc.encState ≠ .encIdle) (e : Edge) (h : HostPorts) :
    selectedAt (e.withFramePort h) s = selectedAt e s := by
  rw [selectedAt, selectedAt, selected, selected, edgePorts_withFramePort, selectEnc_of_not_idle hs,
    selectDec_withFramePort _ _ _ e h (edgePorts_host s e), edgePorts_host]
  rfl

theorem edgeStep_withFramePort {s : State} (hs : s.enc.encState ≠ .encIdle) (e : Edge) (h : HostPorts) :
    edgeStep (e.withFramePort h) s = edgeStep e s := by
  rw [edgeStep, edgeStep, selectedAt_withFramePort hs, transport_withFramePort]

end Sys2Proof.Machine

namespace Sys2Proof.Proofs

open Machine

/-- Settles O43: neither the selection outside `EncIdle` nor the transport looks at the frame port. -/
theorem framePortIsReadOnlyAtTheLoad : Obligations.FramePortIsReadOnlyAtTheLoad := by
  intro s e e' rest hs he
  have hport : e' = e.withFramePort e'.host := he
  rw [hport]
  exact edgeStep_withFramePort (s := withStims rest s) hs e e'.host

end Sys2Proof.Proofs
end

section
/-! SUPPORT. A frame as its edges: an edge that only offers the next byte of the `rx` stream is the reception of that
byte (20_memory.md R61; 42_decoder.md R174, R175). -/

namespace Sys2Proof.Machine

theorem txReady_offer (s : State) : (edgePorts Edge.offer s).txReady = false := by
  cases hq : s.env.rxQueue <;> simp only [edgePorts, hq] <;> rfl

/-- At an edge that only offers a byte, `CRCU` and `ENC` do nothing. -/
theorem edgeStep_offer (s : State) : edgeStep Edge.offer s =
    .next (effect (selectDec s.dec.decState s.dec.decCrc (edgePorts Edge.offer s)) (transport Edge.offer s)) := by
  have hvalid : (edgePorts Edge.offer s).host.encValid = false := by rw [edgePorts_host]; rfl
  rw [edgeStep_eq, effect_selectEnc_eq_self (fun _ => hvalid) (fun _ => txReady_offer s)]
  rfl

theorem transport_offer (s : State) : transport Edge.offer s =
    withRxQueue (if s.dec.decState.reading then s.env.rxQueue.tail else s.env.rxQueue) s := by
  have hgives : (if transportGives Edge.offer s then s.env.rxQueue.tail else s.env.rxQueue) =
      if s.dec.decState.reading then s.env.rxQueue.tail else s.env.rxQueue := by
    cases hq : s.env.rxQueue with
    | nil => simp
    | cons b q => simp [transportGives, edgePorts, hq, Edge.offer, Edge.quiet, HostPorts.quiet, rxReady]
  rw [transport, hgives, transportTakes, txFire, txReady_offer, Bool.and_false, Bool.and_false, Bool.false_and]
  rfl

/-- Outside the reading states no byte is taken (42_decoder.md R175). -/
theorem edgeStep_offer_of_not_reading {s : State} (h : s.dec.decState.reading = false) :
    edgeStep Edge.offer s = .next s := by
  rw [edgeStep_offer, effect_selectDec (transport_dec s _), transport_offer, h, edgePorts_host]
  rfl

theorem edgeStep_offer_of_reading {s : State} (h : s.dec.decState.reading = true) {b : Byte} {q : List Byte}
    (hq : s.env.rxQueue = b :: q) : edgeStep Edge.offer s = .next (takeByte b (withRxQueue q s)) := by
  have hports : (edgePorts Edge.offer s).rxValid = true ∧ (edgePorts Edge.offer s).rxData = b := by
    simp only [edgePorts, hq]
    exact ⟨rfl, rfl⟩
  obtain ⟨hvalid, hdata⟩ := hports
  rw [edgeStep_offer, effect_selectDec (transport_dec s _), transport_offer, h, hvalid, hdata, hq]
  rfl

/-- `n` edges planned at which the next byte is offered, and then `rest`. -/
def offers (n : Nat) (rest : List Stim) : List Stim := List.replicate n (.edge Edge.offer) ++ rest

theorem step_offers (n : Nat) (rest : List Stim) (s : State) :
    step (withStims (offers (n + 1) rest) s) = edgeStep Edge.offer (withStims (offers n rest) s) :=
  step_edge rfl

theorem run_offers_of_not_reading {s : State} (h : s.dec.decState.reading = false) (rest : List Stim) (n : Nat) :
    Host.Core.run Sys2Proof.core n (withStims (offers n rest) s) = .next (withStims rest s) := by
  induction n with
  | zero => rfl
  | succ n ih =>
    have hstep := (step_offers n rest s).trans (edgeStep_offer_of_not_reading (s := withStims (offers n rest) s) h)
    rw [run_succ hstep, ih]

/-- As many edges as there are bytes, each offering the next one, are the reception of the bytes. -/
theorem run_offers (w q : List Byte) (rest : List Stim) (s : State) (hq : s.env.rxQueue = w ++ q) :
    Host.Core.run Sys2Proof.core w.length (withStims (offers w.length rest) s) =
      .next (receive w (withRxQueue q (withStims rest s))) := by
  induction w generalizing s with
  | nil =>
    obtain rfl : s.env.rxQueue = q := hq
    rfl
  | cons b w ih =>
    cases hr : s.dec.decState.reading with
    | false =>
      rw [run_offers_of_not_reading hr, receive_not_reading (s := withRxQueue q (withStims rest s)) hr]
      exact congrArg (fun r => Host.Outcome.next (withRxQueue r (withStims rest s))) hq
    | true =>
      have hstep := (step_offers w.length rest s).trans
        (edgeStep_offer_of_reading (s := withStims (offers w.length rest) s) hr hq)
      rw [List.length_cons, run_succ (hstep.trans (congrArg Host.Outcome.next (takeByte_withEnv b s _))),
        receive_cons_reading (s := withRxQueue q (withStims rest s)) hr]
      exact (ih { takeByte b s with env := { s.env with rxQueue := w ++ q } } rfl).trans
        (congrArg (fun t => Host.Outcome.next (receive w t)) (takeByte_withEnv b s _).symm)

end Sys2Proof.Machine

namespace Sys2Proof.Proofs

open Machine

/-- Settles O21: a frame is the reception of its bytes, and so, byte by byte, are the edges that offer them. -/
theorem frameIsItsEdges : Obligations.FrameIsItsEdges := by
  intro i s q rest hf hq
  rw [exec_eq_next, effect_of_isFrame hf]
  exact run_offers (encode i) q rest s hq

end Sys2Proof.Proofs
end

section
/-! SUPPORT. A frame format through its parts, ID, payload and checksum letter: one case split on the nine formats gives
its bytes, its well-formedness and the format of its parts (30_encoding.md R80 to R83), and the rest goes through them. -/

namespace Sys2Proof.Machine

/-- A format of `n` payload bytes has those bytes on the wire, demands that checksum, and is the one its parts give. -/
theorem frameParts_spec {i : Instr} {f : Frame} {c : Byte} (h : i.frameParts = some (f, c)) :
    encode i = wireBytes f.id f.data c ∧ i.wf = checksumMatches f.id f.data c ∧ frameOf f.id f.data c = some i := by
  cases i <;> cases h <;> exact ⟨rfl, rfl, rfl⟩

/-- The parts of the format given are the bytes it was given for. -/
theorem frameParts_of_frameOf {i c : Byte} {data : List Byte} {j : Instr} (h : frameOf i data c = some j) :
    ∃ f : Frame, j.frameParts = some (f, c) ∧ f.id = i ∧ f.data = data := by
  unfold frameOf at h
  split at h <;> cases h <;> exact ⟨_, rfl, rfl, rfl⟩

/-- There is a format for every payload of at most 8 bytes (30_encoding.md R81). -/
theorem exists_frameOf (i c : Byte) {data : List Byte} (h : data.length ≤ 8) : ∃ j, frameOf i data c = some j := by
  match data with
  | [] | [_] | [_, _] | [_, _, _] | [_, _, _, _] | [_, _, _, _, _] | [_, _, _, _, _, _] | [_, _, _, _, _, _, _]
  | [_, _, _, _, _, _, _, _] => exact ⟨_, rfl⟩
  | _ :: _ :: _ :: _ :: _ :: _ :: _ :: _ :: _ :: _ =>
    simp only [List.length_cons] at h
    omega

theorem exists_frameParts {i : Instr} (h : i.isFrame = true) : ∃ f c, i.frameParts = some (f, c) := by
  obtain ⟨⟨f, c⟩, hp⟩ := Option.isSome_iff_exists.mp h
  exact ⟨f, c, hp⟩

theorem isFrame_of_frameParts {i : Instr} {f : Frame} {c : Byte} (h : i.frameParts = some (f, c)) :
    i.isFrame = true := by
  rw [Instr.isFrame, h]; rfl

/-! #### Reading a stream, case by case -/

theorem decodeWire_of_badStart {b : Byte} (h : b ≠ Config.start) (s : List Byte) :
    decodeWire (b :: s) = .reject .badStartByte := if_neg h

theorem decodeWire_of_illegal {len : Byte} (h : 8 < len.toNat) (i : Byte) (body : List Byte) :
    decodeWire (Config.start :: i :: len :: body) = .reject .lengthOutOfRange := if_neg (Nat.not_le.mpr h)

theorem decodeWire_of_legal {len : Byte} (h : len.toNat ≤ 8) (i : Byte) (body : List Byte) :
    decodeWire (Config.start :: i :: len :: body) = decodeBody i len body := if_pos h

section
variable {i len : Byte} {d : List Byte}

theorem decodeBody_of_short (h : d.length < len.toNat) :
    decodeBody i len d = .reject (.truncated .readData d.length) := if_pos h

theorem decodeBody_of_whole (h : d.length = len.toNat) :
    decodeBody i len d = .reject (.truncated .readChecksum 0) := by
  simp [decodeBody, ← h]

theorem decodeBody_of_checksum {j : Instr} {c : Byte} (h : d.length = len.toNat) (hj : frameOf i d c = some j)
    (t : List Byte) : decodeBody i len (d ++ c :: t) = .frame j t := by
  simp [decodeBody, ← h, hj]

end

/-- The bytes after a LEN byte of `n`: fewer than `n`, exactly `n`, or `n` and at least the checksum byte. -/
theorem body_cases (n : Nat) (body : List Byte) :
    body.length < n ∨ body.length = n ∨ ∃ d c t, body = d ++ c :: t ∧ d.length = n := by
  rcases Nat.lt_trichotomy body.length n with h | h | h
  · exact .inl h
  · exact .inr (.inl h)
  · obtain ⟨c, t, hd⟩ := List.ne_nil_iff_exists_cons.mp fun hnil => Nat.not_le.mpr h (List.drop_eq_nil_iff.mp hnil)
    exact .inr (.inr ⟨body.take n, c, t, by rw [← hd, List.take_append_drop], List.length_take_of_le h.le⟩)

/-- What a stream is to both readers of it (30_encoding.md R83, R85; 42_decoder.md R160): a frame format's bytes and a
rest, or bytes that both reject alike. -/
theorem stream_cases (s : List Byte) :
    (∃ i f c t, i.frameParts = some (f, c) ∧ s = wireBytes f.id f.data c ++ t ∧ decodeWire s = .frame i t) ∨
    (decodeWire s = .reject .badStartByte ∧ decode s = .done (.err .badStartByte) 1) ∨
    (decodeWire s = .reject .lengthOutOfRange ∧ decode s = .done (.err .lengthOutOfRange) 3) ∨
    ∃ st k, decodeWire s = .reject (.truncated st k) ∧ decode s = .pending st k := by
  match s with
  | [] => exact .inr (.inr (.inr ⟨_, _, rfl, rfl⟩))
  | b :: s1 =>
    by_cases hb : b = Config.start
    · subst hb
      match s1 with
      | [] | [_] => exact .inr (.inr (.inr ⟨_, _, rfl, rfl⟩))
      | i :: len :: body =>
        by_cases legal : len.toNat ≤ 8
        · rw [decodeWire_of_legal legal, decode_of_legal legal]
          rcases body_cases len.toNat body with hs | hw | ⟨d, c, t, rfl, hd⟩
          · exact .inr (.inr (.inr ⟨_, _, decodeBody_of_short hs, decodeTail_of_short hs⟩))
          · exact .inr (.inr (.inr ⟨_, _, decodeBody_of_whole hw, decodeTail_of_whole hw⟩))
          · obtain ⟨j, hj⟩ := exists_frameOf i c (hd.trans_le legal)
            obtain ⟨f, hp, rfl, rfl⟩ := frameParts_of_frameOf hj
            have hlen : BitVec.ofNat 8 f.data.length = len := by rw [hd]; simp
            exact .inl ⟨j, f, c, t, hp, by simp [wireBytes, hlen], decodeBody_of_checksum hd hj t⟩
        · exact .inr (.inr (.inl ⟨decodeWire_of_illegal (Nat.not_le.mp legal) i body,
            decode_of_illegal (Nat.not_le.mp legal) i body⟩))
    · exact .inr (.inl ⟨decodeWire_of_badStart hb s1, decode_of_badStart hb s1⟩)

theorem wireBytes_append (f : Frame) (c : Byte) (t : List Byte) :
    wireBytes f.id f.data c ++ t = Config.start :: f.id :: f.len :: (f.data ++ c :: t) := by
  simp [wireBytes, Frame.len]

theorem Frame.toNat_len_le (f : Frame) : f.len.toNat ≤ 8 := f.toNat_len.trans_le f.short

/-- A frame's bytes read back as the frame, whatever follows. -/
theorem decodeWire_wireBytes {i : Instr} {f : Frame} {c : Byte} (h : i.frameParts = some (f, c)) (t : List Byte) :
    decodeWire (wireBytes f.id f.data c ++ t) = .frame i t := by
  obtain ⟨-, -, hf⟩ := frameParts_spec h
  rw [wireBytes_append, decodeWire_of_legal f.toNat_len_le, decodeBody_of_checksum f.toNat_len.symm hf]

/-! #### `decode` of a frame's bytes -/

theorem wireBytes_eq_encode_iff (f : Frame) (c : Byte) : wireBytes f.id f.data c = f.encode ↔ c = f.checksum := by
  simp [wireBytes, Frame.encode, Frame.body, Frame.len]

/-- The attempt ends at the checksum byte, whose value decides (42_decoder.md R160, cases 8 and 9). -/
theorem decode_wireBytes (f : Frame) (c : Byte) (t : List Byte) : decode (wireBytes f.id f.data c ++ t) =
    if c = f.checksum then .done (.ok f) (4 + f.data.length)
    else .done (.err .checksumMismatch) (4 + f.data.length) := by
  rw [wireBytes_append, decode_of_legal f.toNat_len_le, decodeTail_of_checksum f.toNat_len.symm]
  simp only [f.toNat_len]
  rfl

end Sys2Proof.Machine

namespace Sys2Proof.Proofs

open Machine

/-- Settles O16: a frame is the format its parts give, and its bytes are read by position. -/
theorem wireRoundTrip : Obligations.WireRoundTrip := by
  intro i t hi
  obtain ⟨f, c, hp⟩ := exists_frameParts hi
  obtain ⟨hbytes, -, -⟩ := frameParts_spec hp
  rw [hbytes, decodeWire_wireBytes hp]

/-- Settles O18: the checksum letter alone decides all three. -/
theorem wellFormedFramesAreTheAcceptedOnes : Obligations.WellFormedFramesAreTheAcceptedOnes := by
  intro i f c t hp
  obtain ⟨hbytes, hwf, -⟩ := frameParts_spec hp
  have hiff : i.wf = true ↔ c = f.checksum := by rw [hwf]; exact beq_iff_eq
  rw [hbytes, wireBytes_eq_encode_iff, decode_wireBytes]
  exact ⟨by simp [wireBytes, Frame.len], hiff, by simp only [hiff]⟩

/-- Settles O17: a stream is a frame's bytes and a rest, or both readers reject it alike. -/
theorem wireReadingIsSound : Obligations.WireReadingIsSound := by
  refine ⟨fun s t i h => ?_, fun s => ?_, fun s => ?_, fun s st k => ?_⟩
  · rcases stream_cases s with ⟨j, f, c, u, hp, hs, hw⟩ | ⟨hw, -⟩ | ⟨hw, -⟩ | ⟨_, _, hw, -⟩ <;> rw [hw] at h <;> cases h
    obtain ⟨hbytes, -, -⟩ := frameParts_spec hp
    exact ⟨isFrame_of_frameParts hp, by rw [hs, hbytes]⟩
  all_goals
    rcases stream_cases s with ⟨j, f, c, u, -, hs, hw⟩ | ⟨hw, hd⟩ | ⟨hw, hd⟩ | ⟨_, _, hw, hd⟩
    · have hd := decode_wireBytes f c u
      rw [← hs] at hd
      rw [hw, hd]
      split <;> simp
    all_goals rw [hw, hd]; simp

end Sys2Proof.Proofs
end

section
/-! SUPPORT. Valid frames (30_encoding.md R86) are the bytes of a frame with its own checksum, and the third byte tells
their length, so none of them begins another. -/

namespace Sys2Proof.Machine

theorem encode_eq_wireBytes (f : Frame) : f.encode = wireBytes f.id f.data f.checksum :=
  ((wireBytes_eq_encode_iff f _).mpr rfl).symm

theorem length_wireBytes (f : Frame) (c : Byte) : (wireBytes f.id f.data c).length = 4 + f.len.toNat := by
  simp [wireBytes, f.toNat_len]; omega

/-- START, any ID, a legal LEN and one byte more than LEN says are the bytes of a frame and a checksum letter. -/
theorem exists_eq_wireBytes (i : Byte) {len : Byte} {rest : List Byte} (hlen : len.toNat ≤ 8)
    (hrest : rest.length = len.toNat + 1) :
    ∃ (f : Frame) (c : Byte), Config.start :: i :: len :: rest = wireBytes f.id f.data c := by
  obtain rfl | ⟨d, c, rfl⟩ := List.eq_nil_or_concat rest
  · cases hrest
  · have hd : d.length = len.toNat := by simpa using hrest
    exact ⟨{ id := i, data := d, short := hd.trans_le hlen }, c, by simp [wireBytes, hd]⟩

/-- Among such bytes the last one decides: it must be the checksum of those between it and the first. -/
theorem validFrame_wireBytes (f : Frame) (c : Byte) :
    validFrame (wireBytes f.id f.data c) = true ↔ c = f.checksum := by
  have hlegal : f.len.toNat ≤ Config.maxLen := f.toNat_len_le
  have hlength := length_wireBytes f c
  show (Config.start == Config.start && decide (f.len.toNat ≤ Config.maxLen) &&
    decide ((wireBytes f.id f.data c).length = 4 + f.len.toNat) &&
    (f.data ++ [c]).getLast? == some (crc8 (f.id :: f.len :: (f.data ++ [c]).dropLast))) = true ↔ _
  simp [hlegal, hlength, Frame.checksum, Frame.body]

theorem validFrame_iff_exists_encode (w : List Byte) : validFrame w = true ↔ ∃ f : Frame, w = f.encode := by
  refine ⟨fun h => ?_, fun ⟨f, hf⟩ => by rw [hf, encode_eq_wireBytes, validFrame_wireBytes]⟩
  match w with
  | [] | [_] | [_, _] => cases h
  | s :: i :: len :: rest =>
    have hparts := h
    simp only [validFrame, Bool.and_eq_true, beq_iff_eq, decide_eq_true_eq, List.length_cons] at hparts
    obtain ⟨⟨⟨rfl, hlen⟩, hlength⟩, -⟩ := hparts
    obtain ⟨f, c, hw⟩ := exists_eq_wireBytes i (rest := rest) hlen (by omega)
    rw [hw, validFrame_wireBytes] at h
    exact ⟨f, by rw [hw, h, encode_eq_wireBytes]⟩

theorem length_encode (f : Frame) : f.encode.length = 4 + f.len.toNat := by
  rw [encode_eq_wireBytes, length_wireBytes]

/-- The last byte of an encoding is the checksum of those between it and the first. -/
theorem getLast?_wireBytes (f : Frame) (c : Byte) : (wireBytes f.id f.data c).getLast? = some c ∧
    crc8 ((wireBytes f.id f.data c).dropLast.drop 1) = f.checksum := by
  have hsplit : wireBytes f.id f.data c = Config.start :: f.body ++ [c] := rfl
  rw [hsplit, List.getLast?_concat, List.dropLast_concat]
  exact ⟨rfl, rfl⟩

/-- R86 as it stands. -/
theorem validFrame_iff (w : List Byte) : validFrame w = true ↔
    4 ≤ w.length ∧ w[0]? = some 0xAA ∧
      (∃ len : Byte, w[2]? = some len ∧ len.toNat ≤ 8 ∧ w.length = 4 + len.toNat) ∧
      w.getLast? = some (crc8 (w.dropLast.drop 1)) := by
  constructor
  · intro h
    obtain ⟨f, rfl⟩ := (validFrame_iff_exists_encode w).mp h
    have hlength := length_encode f
    refine ⟨by omega, rfl, ⟨f.len, rfl, f.toNat_len_le, hlength⟩, ?_⟩
    rw [encode_eq_wireBytes]
    obtain ⟨hlast, hcrc⟩ := getLast?_wireBytes f f.checksum
    rw [hlast, hcrc]
  · rintro ⟨hlong, hstart, ⟨len, hthird, hlen, hlength⟩, hlast⟩
    match w with
    | [] | [_] | [_, _] => cases hthird
    | s :: i :: l :: rest =>
      cases hstart
      cases hthird
      simp only [List.length_cons] at hlength
      obtain ⟨f, c, hw⟩ := exists_eq_wireBytes i (rest := rest) hlen (by omega)
      obtain ⟨hc, hcrc⟩ := getLast?_wireBytes f c
      rw [show (0xAA : Byte) = Config.start from rfl, hw, hc, hcrc] at hlast
      rw [show (0xAA : Byte) = Config.start from rfl, hw, validFrame_wireBytes]
      exact Option.some_inj.mp hlast

/-- A valid frame that begins another is all of it: they have the same third byte, hence the same length. -/
theorem eq_nil_of_encode_append_eq_encode {f g : Frame} {v : List Byte} (h : f.encode ++ v = g.encode) : v = [] := by
  have hthird : f.len = g.len := Option.some_inj.mp (congrArg (·[2]?) h)
  have hlength := congrArg List.length h
  rw [List.length_append, length_encode, length_encode, hthird] at hlength
  exact List.eq_nil_of_length_eq_zero (by omega)

end Sys2Proof.Machine

namespace Sys2Proof.Proofs

open Machine

/-- Settles O8: valid frames are exactly the encodings. -/
theorem validFramesAreEncodingsAndPrefixFree : Obligations.ValidFramesAreEncodingsAndPrefixFree := by
  refine ⟨validFrame_iff, validFrame_iff_exists_encode, fun w h => ?_, fun w v hw hv => ?_, ⟨?_, ?_⟩, ?_⟩
  · obtain ⟨f, rfl⟩ := (validFrame_iff_exists_encode w).mp h
    refine ⟨f, rfl, rfl, ?_, rfl⟩
    show f.data = (f.data ++ [f.checksum]).take f.len.toNat
    rw [f.toNat_len, List.take_left]
  · obtain ⟨f, rfl⟩ := (validFrame_iff_exists_encode w).mp hw
    obtain ⟨g, hg⟩ := (validFrame_iff_exists_encode _).mp hv
    exact eq_nil_of_encode_append_eq_encode hg
  all_goals simp [validFrame, crc8, crc8Update, crc8Bit, Config.maxLen]

end Sys2Proof.Proofs
end

section
/-! SUPPORT. Selection and the opcode table's rows (30_encoding.md R89 to R91; 40_crc8.md R118): the operation selected for
a unit has its row's condition, and no other operation of the unit has. -/

namespace Sys2Proof.Machine

variable {est : EncState} {dst : DecState} {crc : Byte} {p : Ports}

/-! #### What `DEC` selects -/

theorem selectDec_of_reading {st : DecState} (h : st.reading = true) (crc : Byte) (p : Ports) :
    selectDec st crc p = if p.rxValid then selectDecByte st crc p.rxData else .decWait := by
  cases st <;> first | rfl | cases h

theorem selectDec_of_not_reading {st : DecState} (h : st.reading = false) (crc : Byte) (p : Ports) :
    selectDec st crc p = if p.host.decStart then .decStart else .decHold := by
  cases st <;> first | rfl | cases h

theorem selectDecByte_start (crc : Byte) : selectDecByte .awaitStart crc Config.start = .decSofOk := rfl

theorem selectDecByte_badStart {b : Byte} (h : b ≠ Config.start) (crc : Byte) :
    selectDecByte .awaitStart crc b = .decSofBad b := if_neg h

theorem selectDecByte_zeroLen (crc : Byte) : selectDecByte .readLen crc 0x00 = .decRdLenZero := rfl

theorem selectDecByte_legalLen {b : Byte} (h0 : 1 ≤ b.toNat) (h : b.toNat ≤ Config.maxLen) (crc : Byte) :
    selectDecByte .readLen crc b = .decRdLenNz b :=
  (if_neg fun hz => absurd h0 (by rw [hz]; decide)).trans (if_pos h)

theorem selectDecByte_illegalLen {b : Byte} (h : 9 ≤ b.toNat) (crc : Byte) :
    selectDecByte .readLen crc b = .decRdLenBad b :=
  (if_neg fun hz => absurd h (by rw [hz]; decide)).trans (if_neg (Nat.not_le.mpr h))

theorem selectDecByte_checksum (crc : Byte) : selectDecByte .readChecksum crc crc = .decCrcOk crc := if_pos rfl

theorem selectDecByte_badChecksum {b crc : Byte} (h : b ≠ crc) : selectDecByte .readChecksum crc b = .decCrcBad b :=
  if_neg h

/-! #### The selected operation's row applies -/

theorem applies_selectCrcu (hr : p.host.rst = false) : (selectCrcu p.host).applies est dst crc p = true := by
  unfold selectCrcu
  cases hclr : p.host.crcClr <;> cases hen : p.host.crcEn <;> simp [Instr.applies, hr, hclr, hen]

theorem applies_selectEnc (hr : p.host.rst = false) : (selectEnc est p).applies est dst crc p = true := by
  cases est
  case encIdle =>
    cases hv : p.host.encValid
    · simp [selectEnc, Instr.applies, hr, hv]
    · by_cases hlen : p.host.encLen.toNat ≤ Config.maxLen
      · simp [selectEnc, Instr.applies, hr, hv, hlen]
      · simp [selectEnc, Instr.applies, hr, hv, hlen, Nat.lt_of_not_le hlen]
  all_goals cases hready : p.txReady <;> simp [selectEnc, Instr.applies, hr, hready]

theorem applies_selectDecByte (hr : p.host.rst = false) (hs : dst.reading = true) (hv : p.rxValid = true) :
    (selectDecByte dst crc p.rxData).applies est dst crc p = true := by
  cases dst <;> cases hs
  case awaitStart =>
    by_cases hb : p.rxData = Config.start
    · rw [hb, selectDecByte_start]; simp [Instr.applies, hr, hv, hb]
    · rw [selectDecByte_badStart hb]; simpa [Instr.applies, hr, hv] using hb
  case readId | readData => simp [selectDecByte, Instr.applies, hr, hv]
  case readLen =>
    rcases Nat.eq_zero_or_pos p.rxData.toNat with h0 | hpos
    · have hb : p.rxData = 0x00 := BitVec.eq_of_toNat_eq h0
      rw [hb, selectDecByte_zeroLen]; simp [Instr.applies, hr, hv, hb]
    · have h1 : 1 ≤ p.rxData.toNat := hpos
      rcases Nat.lt_or_ge p.rxData.toNat 9 with hlt | h9
      · have hlen : p.rxData.toNat ≤ Config.maxLen := Nat.le_of_lt_succ hlt
        rw [selectDecByte_legalLen h1 hlen]; simp [Instr.applies, hr, hv, hlen, h1]
      · rw [selectDecByte_illegalLen h9]; simpa [Instr.applies, hr, hv] using h9
  case readChecksum =>
    by_cases hb : p.rxData = crc
    · rw [hb, selectDecByte_checksum]; simp [Instr.applies, hr, hv, hb]
    · rw [selectDecByte_badChecksum hb]; simp [Instr.applies, hr, hv, hb]

theorem applies_selectDec (hr : p.host.rst = false) : (selectDec dst crc p).applies est dst crc p = true := by
  cases hs : dst.reading
  · rw [selectDec_of_not_reading hs]
    cases hstart : p.host.decStart <;> simp [Instr.applies, hr, hs, hstart]
  · rw [selectDec_of_reading hs]
    cases hv : p.rxValid
    · simp [Instr.applies, hr, hs, hv]
    · exact applies_selectDecByte hr hs hv

/-! #### No other row of the unit does -/

theorem eq_selectCrcu_of_applies {i : Instr} (hu : i.unit = .crcu) (h : i.applies est dst crc p = true) :
    p.host.rst = false ∧ i = selectCrcu p.host := by
  cases i <;> cases hu
  all_goals
    simp only [Instr.applies, Bool.and_eq_true, Bool.not_eq_true', beq_iff_eq] at h
    simp [selectCrcu, h]

theorem eq_selectEnc_of_applies {i : Instr} (hu : i.unit = .enc) (h : i.applies est dst crc p = true) :
    p.host.rst = false ∧ i = selectEnc est p := by
  cases i <;> cases hu
  all_goals
    simp only [Instr.applies, Bool.and_eq_true, Bool.not_eq_true', beq_iff_eq, bne_iff_ne, decide_eq_true_eq] at h
  case encLoad id len d =>
    obtain ⟨⟨⟨⟨⟨⟨hr, rfl⟩, hv⟩, hlen⟩, rfl⟩, rfl⟩, rfl⟩ := h
    simp [selectEnc, hr, hv, hlen]
  case encLoadFault len =>
    obtain ⟨⟨⟨⟨hr, rfl⟩, hv⟩, hlen⟩, rfl⟩ := h
    simp [selectEnc, hr, hv, Nat.not_le.mpr hlen]
  case encWait =>
    obtain ⟨⟨hr, hs⟩, hready⟩ := h
    cases est
    case encIdle => exact absurd rfl hs
    all_goals simp [selectEnc, hr, hready]
  case encTxStart | encTxId | encTxLen | encTxData | encTxCrc | encIdle =>
    obtain ⟨⟨hr, rfl⟩, hport⟩ := h
    simp [selectEnc, hr, hport]

theorem eq_selectDec_of_applies {i : Instr} (hu : i.unit = .dec) (h : i.applies est dst crc p = true) :
    p.host.rst = false ∧ i = selectDec dst crc p := by
  cases i <;> cases hu
  all_goals
    simp only [Instr.applies, Bool.and_eq_true, Bool.not_eq_true', beq_iff_eq, bne_iff_ne, decide_eq_true_eq,
      Bool.false_eq_true] at h
  case decStart | decHold =>
    obtain ⟨⟨hr, hs⟩, hport⟩ := h
    simp [selectDec_of_not_reading hs, hr, hport]
  case decWait =>
    obtain ⟨⟨hr, hs⟩, hv⟩ := h
    simp [selectDec_of_reading hs, hr, hv]
  case decSofOk | decRdLenZero =>
    obtain ⟨⟨⟨hr, rfl⟩, hv⟩, hb⟩ := h
    exact ⟨hr, by rw [selectDec_of_reading rfl, hv, hb]; rfl⟩
  case decRdId b | decRdData b =>
    obtain ⟨⟨⟨hr, rfl⟩, hv⟩, hb⟩ := h
    exact ⟨hr, by rw [selectDec_of_reading rfl, hv, hb]; rfl⟩
  case decSofBad b =>
    obtain ⟨⟨⟨⟨hr, rfl⟩, hv⟩, hb⟩, hbad⟩ := h
    exact ⟨hr, by rw [selectDec_of_reading rfl, hv, hb, selectDecByte_badStart hbad]; rfl⟩
  case decRdLenNz b =>
    obtain ⟨⟨⟨⟨⟨hr, rfl⟩, hv⟩, hb⟩, hpos⟩, hlen⟩ := h
    exact ⟨hr, by rw [selectDec_of_reading rfl, hv, hb, selectDecByte_legalLen hpos hlen]; rfl⟩
  case decRdLenBad b =>
    obtain ⟨⟨⟨⟨hr, rfl⟩, hv⟩, hb⟩, h9⟩ := h
    exact ⟨hr, by rw [selectDec_of_reading rfl, hv, hb, selectDecByte_illegalLen h9]; rfl⟩
  case decCrcOk b =>
    obtain ⟨⟨⟨⟨hr, rfl⟩, hv⟩, hb⟩, rfl⟩ := h
    exact ⟨hr, by rw [selectDec_of_reading rfl, hv, hb, selectDecByte_checksum]; rfl⟩
  case decCrcBad b =>
    obtain ⟨⟨⟨⟨hr, rfl⟩, hv⟩, hb⟩, hbad⟩ := h
    exact ⟨hr, by rw [selectDec_of_reading rfl, hv, hb, selectDecByte_badChecksum hbad]; rfl⟩

/-! #### The operations of an edge -/

theorem unit_selectCrcu (h : HostPorts) : (selectCrcu h).unit = .crcu := by
  unfold selectCrcu
  split
  · rfl
  · split <;> rfl

theorem unit_selectDec (st : DecState) (crc : Byte) (p : Ports) : (selectDec st crc p).unit = .dec := by
  cases st <;> simp only [selectDec] <;> split <;> first | rfl | exact unit_selectDecByte _ _ _

theorem selected_of_rst (hr : p.host.rst = true) : selected est dst crc p = [.rst] := if_pos hr

theorem selected_of_not_rst (hr : p.host.rst = false) :
    selected est dst crc p = [selectCrcu p.host, selectEnc est p, selectDec dst crc p] :=
  if_neg (by rw [hr]; decide)

theorem unit_selected (hr : p.host.rst = false) :
    (selected est dst crc p).map Instr.unit = [.crcu, .enc, .dec] := by
  rw [selected_of_not_rst hr]
  simp only [List.map_cons, List.map_nil, unit_selectCrcu, unit_selectEnc, unit_selectDec]

theorem applies_of_mem_selected {i : Instr} (h : i ∈ selected est dst crc p) : i.applies est dst crc p = true := by
  cases hr : p.host.rst with
  | true =>
    rw [selected_of_rst hr, List.mem_singleton] at h
    rw [h]
    exact hr
  | false =>
    rw [selected_of_not_rst hr] at h
    simp only [List.mem_cons, List.not_mem_nil, or_false] at h
    rcases h with rfl | rfl | rfl
    · exact applies_selectCrcu hr
    · exact applies_selectEnc hr
    · exact applies_selectDec hr

theorem mem_selected_of_applies {i : Instr} (h : i.applies est dst crc p = true) : i ∈ selected est dst crc p := by
  cases hu : i.unit with
  | all =>
    obtain rfl := eq_rst_of_unit_all hu
    rw [selected_of_rst h]
    exact List.mem_singleton_self _
  | crcu =>
    obtain ⟨hr, hi⟩ := eq_selectCrcu_of_applies hu h
    rw [selected_of_not_rst hr, hi]
    simp
  | enc =>
    obtain ⟨hr, hi⟩ := eq_selectEnc_of_applies hu h
    rw [selected_of_not_rst hr, hi]
    simp
  | dec =>
    obtain ⟨hr, hi⟩ := eq_selectDec_of_applies hu h
    rw [selected_of_not_rst hr, hi]
    simp

/-- An edge performs one operation of a unit at most. -/
theorem eq_of_mem_selected {i j : Instr} (hi : i ∈ selected est dst crc p) (hj : j ∈ selected est dst crc p)
    (hu : j.unit = i.unit) : j = i := by
  have hnodup : ((selected est dst crc p).map Instr.unit).Nodup := by
    cases hr : p.host.rst with
    | true => rw [selected_of_rst hr]; exact List.nodup_singleton _
    | false => rw [unit_selected hr]; decide
  exact List.inj_on_of_nodup_map hnodup hj hi hu

/-! #### Driving an operation's ports -/

/-- An operation's condition on its state and arguments is met at its own port activity when it is at any. -/
theorem applies_drive {i : Instr} (h : i.applies est dst crc p = true) : i.applies est dst crc i.drive = true := by
  cases i
  all_goals
    simp only [Instr.applies, Bool.and_eq_true, Bool.not_eq_true', beq_iff_eq, bne_iff_ne, decide_eq_true_eq,
      Bool.false_eq_true] at h
  case decSofBad b =>
    obtain ⟨⟨⟨⟨-, hs⟩, -⟩, -⟩, hbad⟩ := h
    simpa [Instr.applies, Instr.drive, Ports.quiet, HostPorts.quiet, hs] using hbad
  all_goals simp [Instr.applies, Instr.drive, Ports.quiet, HostPorts.quiet, h]

end Sys2Proof.Machine

namespace Sys2Proof.Proofs

open Machine

/-- Settles O12, unit by unit: the operation selected for a unit is the only one of it whose row applies. -/
theorem selectionIsExhaustiveAndExclusive : Obligations.SelectionIsExhaustiveAndExclusive :=
  ⟨fun _ _ _ _ _ => ⟨mem_selected_of_applies, applies_of_mem_selected⟩, fun _ _ _ _ => ⟨selected_of_rst, unit_selected⟩⟩

/-- Settles O13: an operation's own port activity makes its row apply, and an edge performs one operation of a unit. -/
theorem drivingSelectsTheOperation : Obligations.DrivingSelectsTheOperation := by
  rintro i est dst crc ⟨p, hp⟩
  have hi := mem_selected_of_applies (applies_drive hp)
  exact ⟨hi, fun j hu hj => eq_of_mem_selected hi hj hu⟩

end Sys2Proof.Proofs
end

section
/-! SUPPORT. The opcode table's rows for a byte (30_encoding.md R94): one row matches each byte, and the rows of an
operation match only the bytes that select it. -/

namespace Sys2Proof.Machine

theorem countP_awaitStartRows : ∀ b : Byte, awaitStartRows.countP (fun r => r.matchesByte b) = 1 := by decide

theorem countP_readLenRows : ∀ b : Byte, readLenRows.countP (fun r => r.matchesByte b) = 1 := by decide

/-- The one row that matches, with what is known of every row that does. -/
theorem exists_filter_eq_singleton {rows : List ByteRow} {b : Byte} {name : String}
    (hcount : rows.countP (fun r => r.matchesByte b) = 1)
    (hname : ∀ r ∈ rows, r.matchesByte b = true → r.mnemonic = name) :
    ∃ r : ByteRow, rows.filter (fun r => r.matchesByte b) = [r] ∧ r.mnemonic = name := by
  rw [List.countP_eq_length_filter, List.length_eq_one_iff] at hcount
  obtain ⟨r, hr⟩ := hcount
  obtain ⟨hmem, hmatch⟩ := List.mem_filter.mp (hr ▸ List.mem_singleton_self r)
  exact ⟨r, hr, hname r hmem hmatch⟩

/-! #### `AwaitStart` -/

theorem eq_start_of_sofOkRow : ∀ b : Byte, ∀ r ∈ awaitStartRows.take 1, r.matchesByte b = true → b = Config.start := by
  decide

theorem ne_start_of_sofBadRow : ∀ r ∈ awaitStartRows.drop 1, r.matchesByte Config.start = false := by decide

theorem mnemonic_of_awaitStartRow (crc b : Byte) :
    ∀ r ∈ awaitStartRows, r.matchesByte b = true → r.mnemonic = (selectDecByte .awaitStart crc b).mnemonic := by
  intro r hr hb
  rw [← List.take_append_drop 1 awaitStartRows, List.mem_append] at hr
  rcases hr with hr | hr
  · rw [eq_start_of_sofOkRow b r hr hb, selectDecByte_start, List.mem_singleton.mp hr]
    rfl
  · have hbad : b ≠ Config.start := fun h => by
      rw [h, ne_start_of_sofBadRow r hr] at hb
      cases hb
    rw [selectDecByte_badStart hbad]
    have hname : ∀ r ∈ awaitStartRows.drop 1, r.mnemonic = "DEC.SOF_BAD" := by simp [awaitStartRows]
    exact hname r hr

/-! #### `ReadLen` -/

theorem eq_zero_of_rdLenZeroRow : ∀ b : Byte, ∀ r ∈ readLenRows.take 1, r.matchesByte b = true → b = 0x00 := by decide

theorem legal_of_rdLenNzRow : ∀ b : Byte, ∀ r ∈ (readLenRows.drop 1).take 4, r.matchesByte b = true →
    1 ≤ b.toNat ∧ b.toNat ≤ 8 := by decide

theorem illegal_of_rdLenBadRow : ∀ b : Byte, ∀ r ∈ (readLenRows.drop 1).drop 4, r.matchesByte b = true →
    9 ≤ b.toNat := by decide

theorem mnemonic_of_readLenRow (crc b : Byte) :
    ∀ r ∈ readLenRows, r.matchesByte b = true → r.mnemonic = (selectDecByte .readLen crc b).mnemonic := by
  intro r hr hb
  rw [← List.take_append_drop 1 readLenRows, List.mem_append, ← List.take_append_drop 4 (readLenRows.drop 1),
    List.mem_append] at hr
  rcases hr with hr | hr | hr
  · rw [eq_zero_of_rdLenZeroRow b r hr hb, selectDecByte_zeroLen, List.mem_singleton.mp hr]
    rfl
  · obtain ⟨hpos, hlen⟩ := legal_of_rdLenNzRow b r hr hb
    rw [selectDecByte_legalLen hpos hlen]
    have hname : ∀ r ∈ (readLenRows.drop 1).take 4, r.mnemonic = "DEC.RD_LEN_NZ" := by simp [readLenRows]
    exact hname r hr
  · rw [selectDecByte_illegalLen (illegal_of_rdLenBadRow b r hr hb)]
    have hname : ∀ r ∈ (readLenRows.drop 1).drop 4, r.mnemonic = "DEC.RD_LEN_BAD" := by simp [readLenRows]
    exact hname r hr

end Sys2Proof.Machine

namespace Sys2Proof.Proofs

open Machine

/-- Settles O14: the rows are counted over the 256 bytes, and each row's bytes select its operation. -/
theorem tableRowsPartitionTheBytes : Obligations.TableRowsPartitionTheBytes := fun b crc =>
  ⟨exists_filter_eq_singleton (countP_awaitStartRows b) (mnemonic_of_awaitStartRow crc b),
    exists_filter_eq_singleton (countP_readLenRows b) (mnemonic_of_readLenRow crc b)⟩

/-- Settles O15: each word by computation. -/
theorem writtenOutWordsDecode : Obligations.WrittenOutWordsDecode :=
  ⟨rfl, rfl, rfl, rfl, rfl, rfl, rfl, rfl, rfl⟩

end Sys2Proof.Proofs
end

section
/-! SUPPORT. One step of a plan: an edge performs the selected operations one after the other, everything else is what
the plan says (30_encoding.md R89; log entries 1, 5 and 11). -/

namespace Sys2Proof.Machine

/-- The head of the plan is what the environment does next. -/
theorem step_cons {s : State} {x : Stim} {rest : List Stim} (h : s.env.stims = x :: rest) :
    step s = stimStep x (withStims rest s) := by
  unfold step nextStim; rw [h]; rfl

theorem withStims_withStims (st st' : List Stim) (s : State) : withStims st (withStims st' s) = withStims st s := rfl

theorem withStims_self {s : State} {st : List Stim} (h : s.env.stims = st) : withStims st s = s := by
  rw [← h]; rfl

theorem andThen_execAll_nil (i : Instr) (s : State) : andThen (exec i s) (execAll []) = exec i s := by
  rw [exec_eq_next]; rfl

theorem edgeStep_of_rst {e : Edge} (hr : e.host.rst = true) (s : State) :
    edgeStep e s = exec .rst (transport e s) := by
  rw [edgeStep, selectedAt, selected, edgePorts_host, if_pos hr, execAll, andThen_execAll_nil]

/-- An edge without reset performs one operation of each unit, selected from the state before it. -/
theorem edgeStep_of_not_rst {e : Edge} (hr : e.host.rst = false) (s : State) :
    edgeStep e s =
      andThen (exec (selectCrcu e.host) (transport e s)) (fun s1 =>
        andThen (exec (selectEnc s.enc.encState (edgePorts e s)) s1) (fun s2 =>
          exec (selectDec s.dec.decState s.dec.decCrc (edgePorts e s)) s2)) := by
  rw [edgeStep, selectedAt, selected, edgePorts_host, hr]
  simp only [Bool.false_eq_true, if_false, execAll, exec_eq_next, andThen_next]

end Sys2Proof.Machine

namespace Sys2Proof.Proofs

open Machine

/-- Settles O19: an edge at the head of the plan is that edge, before which the plan alone has moved. -/
theorem stepRunsTheSelectedOperations : Obligations.StepRunsTheSelectedOperations := by
  intro s e rest h
  rw [step_edge h]
  exact ⟨fun hr => edgeStep_of_rst hr _, fun hr => edgeStep_of_not_rst hr (withStims rest s)⟩

/-- Settles O20: each act of the environment once it is taken from the plan. -/
theorem stepRunsTheFetchedFrame : Obligations.StepRunsTheFetchedFrame := by
  intro s rest
  refine ⟨fun i q h hw => ?_, fun why h hw => ?_, fun bs h => step_feed h, fun h hq => ?_, fun n h hf => ?_⟩
  · have hw' : decodeWire (withStims rest s).env.rxQueue = .frame i q := hw
    rw [step_recv h, recvStep, hw']
  · have hw' : decodeWire (withStims rest s).env.rxQueue = .reject why := hw
    rw [step_recv h, recvStep, hw']
    rfl
  · rw [step_quiet h hq, step_edge (s := withStims [.edge Edge.quiet] s) rfl, withStims_withStims, withStims_self h]
  · have hplan : { s with env := { s.env with after := .free (n + 1) } } =
        withStims [] { s with env := { s.env with stims := [Config.laterStim n], after := .free (n + 1) } } := by
      rw [withStims, ← h]
    rw [step_free h hf, hplan, ← step_cons rfl]

end Sys2Proof.Proofs
end

section
/-! SUPPORT. An edge of a host script (30_encoding.md R93): the ports the host drives, at whatever pace the transport goes,
and what each unit does then. -/

namespace Sys2Proof.Machine

theorem isFrame_selectDec (st : DecState) (crc : Byte) (p : Ports) : (selectDec st crc p).isFrame = false := by
  cases hs : st.reading
  · rw [selectDec_of_not_reading hs]; split <;> rfl
  · rw [selectDec_of_reading hs]
    split
    · exact isFrame_selectDecByte _ _ _
    · rfl

/-- An edge without reset: the environment is the transport's side of it, and each unit's part is what its operation does
to the state before the edge. -/
theorem edgeStep_views {e : Edge} {s t : State} (hr : e.host.rst = false) (h : edgeStep e s = .next t) :
    t.env = (transport e s).env ∧ t.crcu = (effect (selectCrcu e.host) s).crcu ∧
      encView t = encView (effect (selectEnc s.enc.encState (edgePorts e s)) s) ∧
      decView t = decView (effect (selectDec s.dec.decState s.dec.decCrc (edgePorts e s)) s) := by
  rw [edgeStep_eq, hr] at h
  cases h
  have hunit := unit_selectDec s.dec.decState s.dec.decCrc (edgePorts e s)
  have hframe := isFrame_selectDec s.dec.decState s.dec.decCrc (edgePorts e s)
  obtain ⟨henv, hdec, henc⟩ := effect_selectEnc_selectCrcu s.enc.encState (edgePorts e s) e.host (transport e s)
  obtain ⟨henv', henc', -⟩ := effect_selectDec_views (s := s) hdec (edgePorts e s)
  obtain ⟨hcrcu', -, -⟩ := effect_of_unit_dec hunit hframe
    (effect (selectEnc s.enc.encState (edgePorts e s)) (effect (selectCrcu e.host) (transport e s)))
  obtain ⟨hcrcu, -, -⟩ := effect_of_unit_enc (unit_selectEnc s.enc.encState (edgePorts e s))
    (effect (selectCrcu e.host) (transport e s))
  have hclock : crcuPart.get (effect (selectCrcu e.host) (transport e s)) =
      crcuPart.get (effect (selectCrcu e.host) s) :=
    (local_effect_crcu (unit_selectCrcu e.host)).get_congr rfl
  exact ⟨henv'.trans henv, hcrcu'.trans (hcrcu.trans (congrArg Prod.fst hclock)),
    henc'.trans (henc.trans ((local_effect_enc (unit_selectEnc _ _)).get_congr (s := s) (t := transport e s) rfl)),
    (local_effect_dec hunit hframe).get_congr hdec⟩

/-! #### A script's edge -/

/-- The edge of a script at which the host drives `h`. -/
def scriptEdge (h : HostPorts) (s : State) : Edge := hostEdge h (nextPace s.env).1 s.env.wired

/-- The state before a script's edge: the pace taken from its source, what has arrived on the stream, and the host's
plan after it. -/
def arrival (plan : List Stim) (s : State) : State := { s with env := { (nextPace s.env).2 with stims := plan } }

/-- The ports at a script's edge. -/
def scriptPorts (h : HostPorts) (s : State) : Ports := edgePorts (scriptEdge h s) (arrival [] s)

theorem scriptPorts_host (h : HostPorts) (s : State) : (scriptPorts h s).host = h := edgePorts_host _ _

/-- What a script's edge without reset leads to, when the host drives `h` and goes on with `plan`. -/
structure Driven (h : HostPorts) (plan : List Stim) (s t : State) : Prop where
  env  : t.env = (transport (scriptEdge h s) (arrival plan s)).env
  crcu : t.crcu = (effect (selectCrcu h) s).crcu
  enc  : encView t = encView (effect (selectEnc s.enc.encState (scriptPorts h s)) s)
  dec  : decView t = decView (effect (selectDec s.dec.decState s.dec.decCrc (scriptPorts h s)) s)

theorem nextPace_withStims (st : List Stim) (env : Env) :
    nextPace { env with stims := st } = ((nextPace env).1, { (nextPace env).2 with stims := st }) := by
  simp only [nextPace]
  cases env.pace with
  | cons p rest => rfl
  | nil => cases env.paceAfter <;> rfl

section

variable {s : State} {st : Stmt} {rest plan : List Stim} {h : HostPorts}

/-- A statement that drives its ports is a script's edge. -/
theorem step_drive (hstims : s.env.stims = .stmt st :: rest) (hact : st.act (withStims rest s) = .drive h plan) :
    step s = edgeStep (scriptEdge h s) (arrival plan s) := by
  rw [step_stmt hstims, stmtStep_drive hact, withStims_env, nextPace_withStims]
  rfl

/-- A statement that takes no edge changes the environment alone. -/
theorem step_look (hstims : s.env.stims = .stmt st :: rest) {env : Env}
    (hact : st.act (withStims rest s) = .look env) : step s = .next { s with env := env } := by
  rw [step_stmt hstims, stmtStep_look hact]
  rfl

theorem exists_driven (hstims : s.env.stims = .stmt st :: rest) (hact : st.act (withStims rest s) = .drive h plan)
    (hr : h.rst = false) : ∃ t, step s = .next t ∧ Driven h plan s t := by
  obtain ⟨t, ht⟩ := exists_step_eq_next s
  obtain ⟨henv, hcrcu, henc, hdec⟩ := edgeStep_views hr ((step_drive hstims hact).symm.trans ht)
  refine ⟨t, ht, henv, ?_, ?_, ?_⟩
  · have hget : crcuPart.get (effect (selectCrcu h) (arrival plan s)) = crcuPart.get (effect (selectCrcu h) s) :=
      (local_effect_crcu (unit_selectCrcu h)).get_congr rfl
    exact hcrcu.trans (congrArg Prod.fst hget)
  · exact henc.trans ((local_effect_enc (unit_selectEnc _ _)).get_congr (s := s) (t := arrival plan s) rfl)
  · exact hdec.trans ((local_effect_dec (unit_selectDec _ _ _) (isFrame_selectDec _ _ _)).get_congr (s := s)
      (t := arrival plan s) rfl)

end

theorem encFault_fired (e : Enc) : e.fired.encFault = e.encFault := by
  unfold Enc.fired; split <;> rfl

theorem encDataR_fired (e : Enc) : e.fired.encDataR = e.encDataR := by
  unfold Enc.fired; split <;> rfl

namespace Driven

variable {h : HostPorts} {plan : List Stim} {s t : State}

theorem stims (hd : Driven h plan s t) : t.env.stims = plan := by rw [hd.env]; rfl

theorem answers (hd : Driven h plan s t) : t.env.answers = s.env.answers := by
  obtain ⟨-, -, -, -, -, -, hanswers, -⟩ := nextPace_frame s.env
  rw [hd.env, transport_answers]
  exact hanswers

/-- Without a command to `CRCU` its register holds. -/
theorem crcu_eq (hd : Driven h plan s t) (hclr : h.crcClr = false) (hen : h.crcEn = false) : t.crcu = s.crcu := by
  rw [hd.crcu, selectCrcu, hclr, hen]; rfl

/-- A legal frame offered to an idle encoder is loaded (41_encoder.md R133). -/
theorem enc_of_load (hd : Driven h plan s t) (hs : s.enc.encState = .encIdle) (hv : h.encValid = true)
    (hlen : h.encLen.toNat ≤ 8) : t.enc =
      { encState := .encStart, encIdR := h.encId, encLenR := h.encLen, encDataR := h.encDataIn, encIdx := 0,
        encCrc := 0x00, encFault := s.enc.encFault } := by
  have henc := enc_eq_of_encView hd.enc
  rw [hs, selectEnc, scriptPorts_host, if_pos hv, if_pos hlen, effect, effEncLoad, if_pos ⟨hs, hlen⟩] at henc
  exact henc

/-- An illegal one only sets `enc_fault` (41_encoder.md R134). -/
theorem enc_of_loadFault (hd : Driven h plan s t) (hs : s.enc.encState = .encIdle) (hv : h.encValid = true)
    (hlen : 8 < h.encLen.toNat) : t.enc = { s.enc with encFault := true } := by
  have henc := enc_eq_of_encView hd.enc
  rw [hs, selectEnc, scriptPorts_host, if_pos hv, if_neg (Nat.not_le.mpr hlen), effect, effEncLoadFault,
    if_pos ⟨hs, hlen⟩] at henc
  exact henc

/-- A busy encoder is at most one byte further: neither the flag nor the payload moves. -/
theorem enc_of_busy (hd : Driven h plan s t) (hs : s.enc.encState ≠ .encIdle) :
    t.enc.encFault = s.enc.encFault ∧ t.enc.encDataR = s.enc.encDataR := by
  rw [enc_eq_of_encView hd.enc]
  rcases effect_selectEnc_outcome (scriptPorts h s) s with hu | ⟨hidle, -⟩ | ⟨hidle, -⟩ | ⟨-, hu⟩
  · rw [hu]; exact ⟨rfl, rfl⟩
  · exact absurd hidle hs
  · exact absurd hidle hs
  · rw [hu]; exact ⟨encFault_fired _, encDataR_fired _⟩

/-- A start outside an attempt (42_decoder.md R163). -/
theorem decView_of_start (hd : Driven h plan s t) (hs : s.dec.decState.reading = false) (hstart : h.decStart = true) :
    decView t = decView (startAttempt s) := by
  rw [hd.dec, effect_selectDec rfl, hs, scriptPorts_host, hstart]
  rfl

end Driven

end Sys2Proof.Machine
end

section
/-! SUPPORT. What the host does at each statement of a script (30_encoding.md R93). -/

namespace Sys2Proof.Machine

/-- Entries of a buffer beyond the bytes listed are `0x00` (30_encoding.md R93, `enc.send`). -/
theorem get_ofList (data : List Byte) (k : Index) (h : k.toNat < 8) :
    (Payload.ofList data).get k = data.getD k.toNat 0x00 := by
  revert h
  refine Payload.index_cases
    (P := fun k => k.toNat < 8 → (Payload.ofList data).get k = data.getD k.toNat 0x00) (fun n => ?_) k
  fin_cases n <;> intro h <;> first | rfl | exact absurd h (by decide)

/-- A frame offered to an idle encoder, legal or not, whatever else the host drives. -/
theorem Driven.enc_of_send {h : HostPorts} {plan : List Stim} {s t : State} (hd : Driven h plan s t)
    (hs : s.enc.encState = .encIdle) (hv : h.encValid = true) : t.enc =
      if h.encLen.toNat ≤ 8 then
        { encState := .encStart, encIdR := h.encId, encLenR := h.encLen, encDataR := h.encDataIn, encIdx := 0,
          encCrc := 0x00, encFault := s.enc.encFault }
      else { s.enc with encFault := true } := by
  split
  · next hlen => exact hd.enc_of_load hs hv hlen
  · next hlen => exact hd.enc_of_loadFault hs hv (Nat.lt_of_not_le hlen)

section

variable {s : State} {rest : List Stim}

/-! #### What the host does at the statements that look at a unit first -/

theorem act_encSend_idle (id len : Byte) (data : List Byte) (hs : s.enc.encState = .encIdle) :
    (Stmt.encSend id len data).act (withStims rest s) =
      .drive (Instr.encLoad id len (Payload.ofList data)).drive.host (.stmt .encAwait :: rest) := by
  simp [Stmt.act, hs, encReady]

theorem act_encSend_busy (id len : Byte) (data : List Byte) (hs : s.enc.encState ≠ .encIdle) :
    (Stmt.encSend id len data).act (withStims rest s) =
      .drive (Instr.encLoad id len (Payload.ofList data)).drive.host (.stmt (.encSend id len data) :: rest) := by
  simp [Stmt.act, hs, encReady]

theorem act_encAwait_idle (hs : s.enc.encState = .encIdle) :
    Stmt.encAwait.act (withStims rest s) = .look (withStims rest s).env := by
  simp [Stmt.act, hs, encBusy]

theorem act_encAwait_busy (hs : s.enc.encState ≠ .encIdle) :
    Stmt.encAwait.act (withStims rest s) = .drive HostPorts.quiet (.stmt .encAwait :: rest) := by
  simp [Stmt.act, hs, encBusy]

theorem act_decTry_free (hs : s.dec.decState.reading = false) :
    Stmt.decTry.act (withStims rest s) = .drive Instr.decStart.drive.host (.stmt .decAwait :: rest) := by
  simp [Stmt.act, hs, decBusy, rxReady]

theorem act_decTry_busy (hs : s.dec.decState.reading = true) :
    Stmt.decTry.act (withStims rest s) = .drive HostPorts.quiet (.stmt .decTry :: rest) := by
  simp [Stmt.act, hs, decBusy, rxReady]

theorem act_decAwait_ended {r : Result} (hr : attemptResult s.dec = some r) :
    Stmt.decAwait.act (withStims rest s) = .look (noteAnswer (.result r) (withStims rest s).env) := by
  simp [Stmt.act, hr]

theorem act_decAwait_waiting (hr : attemptResult s.dec = none) :
    Stmt.decAwait.act (withStims rest s) = .drive HostPorts.quiet (.stmt .decAwait :: rest) := by
  simp [Stmt.act, hr]

theorem act_decAll : Stmt.decAll.act (withStims rest s) =
    .look { s.env with stims := if bytesRemain s then .stmt .decTry :: .stmt .decAll :: rest else rest } := by
  have hremain : bytesRemain (withStims rest s) = bytesRemain s := rfl
  rw [Stmt.act, hremain]
  split <;> rfl

theorem act_sendAndTry_free (id len : Byte) (data : List Byte) (hs : s.enc.encState = .encIdle)
    (hr : s.dec.decState.reading = false) : (Stmt.sendAndTry id len data).act (withStims rest s) =
      .drive { (Instr.encLoad id len (Payload.ofList data)).drive.host with decStart := true }
        (.stmt .encAwait :: .stmt .decAwait :: rest) := by
  simp [Stmt.act, hs, hr, encReady, decBusy, rxReady]

theorem act_sendAndTry_busy (id len : Byte) (data : List Byte)
    (hs : ¬ (s.enc.encState = .encIdle ∧ s.dec.decState.reading = false)) :
    (Stmt.sendAndTry id len data).act (withStims rest s) =
      .drive HostPorts.quiet (.stmt (.sendAndTry id len data) :: rest) := by
  have hcond : (encReady s.enc.encState && !decBusy s.dec.decState) = false := by
    simpa [encReady, decBusy, rxReady] using hs
  exact if_neg (by rw [Bool.not_eq_true]; exact hcond)

/-! #### The states after them -/

theorem step_crcPut {b : Byte} (h : s.env.stims = .stmt (.crcPut b) :: rest) : ∃ t, step s = .next t ∧
    t.crcu.crcQ = crc8Update s.crcu.crcQ b ∧ t.env.stims = rest ∧ t.env.answers = s.env.answers := by
  obtain ⟨t, ht, hd⟩ := exists_driven h rfl rfl
  exact ⟨t, ht, by rw [hd.crcu]; rfl, hd.stims, hd.answers⟩

theorem step_crcClr (h : s.env.stims = .stmt .crcClr :: rest) : ∃ t, step s = .next t ∧
    t.crcu.crcQ = 0x00 ∧ t.env.stims = rest ∧ t.env.answers = s.env.answers := by
  obtain ⟨t, ht, hd⟩ := exists_driven h rfl rfl
  exact ⟨t, ht, by rw [hd.crcu]; rfl, hd.stims, hd.answers⟩

theorem step_crcGet (h : s.env.stims = .stmt .crcGet :: rest) : step s = .next { s with
    env := { s.env with stims := rest, answers := s.env.answers ++ [.value s.crcu.crcQ] } } :=
  step_look h rfl

theorem step_reset (h : s.env.stims = .stmt .reset :: rest) : ∃ t, step s = .next t ∧
    t.crcu = Crcu.reset ∧ t.enc = Enc.reset ∧ t.dec = Dec.reset ∧ t.env.stims = rest := by
  have hstep := (step_drive h rfl).trans (edgeStep_of_rst (e := scriptEdge Instr.rst.drive.host s) rfl (arrival rest s))
  exact ⟨_, hstep, rfl, rfl, rfl, rfl⟩

theorem step_encAwait_idle (h : s.env.stims = .stmt .encAwait :: rest) (hs : s.enc.encState = .encIdle) :
    step s = .next (withStims rest s) := step_look h (act_encAwait_idle hs)

theorem step_decAwait_ended (h : s.env.stims = .stmt .decAwait :: rest) {r : Result}
    (hr : attemptResult s.dec = some r) : step s = .next { s with
      env := { s.env with stims := rest, answers := s.env.answers ++ [.result r] } } :=
  step_look h (act_decAwait_ended hr)

theorem step_decAll (h : s.env.stims = .stmt .decAll :: rest) : step s =
    .next (withStims (if bytesRemain s then .stmt .decTry :: .stmt .decAll :: rest else rest) s) :=
  step_look h act_decAll

end

end Sys2Proof.Machine

namespace Sys2Proof.Proofs

open Machine

/-- Settles O48: each statement is one edge with its ports driven, or a change of the environment alone. -/
theorem scriptStatementsDriveTheirPorts : Obligations.ScriptStatementsDriveTheirPorts := by
  refine ⟨get_ofList, fun s st rest h => ?_⟩
  cases st with
  | reset => exact step_reset h
  | crcClr =>
    obtain ⟨t, ht, hcrc, hstims, -⟩ := step_crcClr h
    exact ⟨t, ht, hcrc, hstims⟩
  | crcPut b =>
    obtain ⟨t, ht, hcrc, hstims, -⟩ := step_crcPut h
    exact ⟨t, ht, hcrc, hstims⟩
  | crcGet => exact ⟨_, step_crcGet h, rfl⟩
  | encSend id len data =>
    by_cases hs : s.enc.encState = .encIdle
    · obtain ⟨t, ht, hd⟩ := exists_driven h (act_encSend_idle id len data hs) rfl
      refine ⟨t, ht, hd.crcu_eq rfl rfl, ?_⟩
      rw [if_pos hs]
      exact ⟨hd.stims, hd.enc_of_send hs rfl⟩
    · obtain ⟨t, ht, hd⟩ := exists_driven h (act_encSend_busy id len data hs) rfl
      refine ⟨t, ht, hd.crcu_eq rfl rfl, ?_⟩
      rw [if_neg hs]
      exact ⟨hd.stims.trans h.symm, hd.enc_of_busy hs⟩
  | encAwait =>
    by_cases hs : s.enc.encState = .encIdle
    · refine ⟨_, step_encAwait_idle h hs, ?_⟩
      exact (if_pos hs).mpr rfl
    · obtain ⟨t, ht, hd⟩ := exists_driven h (act_encAwait_busy hs) rfl
      refine ⟨t, ht, ?_⟩
      exact (if_neg hs).mpr (hd.stims.trans h.symm)
  | txExpect bs => exact ⟨_, step_look h rfl, rfl⟩
  | rxFeed bs => exact ⟨_, step_look h rfl, rfl⟩
  | decTry =>
    cases hs : s.dec.decState.reading with
    | false =>
      obtain ⟨t, ht, hd⟩ := exists_driven h (act_decTry_free hs) rfl
      exact ⟨t, ht, dec_eq_of_decView (hd.decView_of_start hs rfl), hd.stims⟩
    | true =>
      obtain ⟨t, ht, hd⟩ := exists_driven h (act_decTry_busy hs) rfl
      exact ⟨t, ht, hd.stims.trans h.symm⟩
  | decAwait =>
    cases hr : attemptResult s.dec with
    | none =>
      obtain ⟨t, ht, hd⟩ := exists_driven h (act_decAwait_waiting hr) rfl
      exact ⟨t, ht, nofun, fun _ => hd.stims.trans h.symm⟩
    | some r =>
      refine ⟨_, step_decAwait_ended h hr, fun r' hr' => ?_, nofun⟩
      cases hr'
      rfl
  | decAll => exact ⟨_, step_decAll h, rfl⟩
  | sendAndTry id len data =>
    by_cases hs : s.enc.encState = .encIdle ∧ s.dec.decState.reading = false
    · obtain ⟨hidle, hfree⟩ := hs
      obtain ⟨t, ht, hd⟩ := exists_driven h (act_sendAndTry_free id len data hidle hfree) rfl
      refine ⟨t, ht, ?_⟩
      exact (if_pos ⟨hidle, hfree⟩).mpr
        ⟨hd.stims, dec_eq_of_decView (hd.decView_of_start hfree rfl), hd.enc_of_send hidle rfl⟩
    · obtain ⟨t, ht, hd⟩ := exists_driven h (act_sendAndTry_busy id len data hs) rfl
      refine ⟨t, ht, ?_⟩
      exact (if_neg hs).mpr (hd.stims.trans h.symm)
  | loopback => exact ⟨_, step_look h rfl, rfl⟩

end Sys2Proof.Proofs
end

section
/-! SUPPORT. A script's edges when the transport goes at one pace for good and nothing is looped back (log entry 10). -/

namespace Sys2Proof.Machine

/-- The transport goes at the pace `p` from here on, and `tx` is not wired to `rx`. -/
structure Steady (p : Pace) (s : State) : Prop where
  pace      : s.env.pace = []
  paceAfter : s.env.paceAfter = .always p
  wired     : s.env.wired = false

theorem steady_withStims {p : Pace} {s : State} (h : Steady p s) (st : List Stim) : Steady p (withStims st s) :=
  ⟨h.pace, h.paceAfter, h.wired⟩

section

variable {p : Pace} {s : State} {h : HostPorts}

theorem Steady.scriptEdge_eq (hs : Steady p s) (h : HostPorts) : scriptEdge h s = hostEdge h p false := by
  rw [scriptEdge, nextPace_always hs.pace hs.paceAfter, hs.wired]

theorem Steady.arrival_eq (hs : Steady p s) (plan : List Stim) :
    arrival plan s = withRxQueue (s.env.rxQueue ++ p.arrives) (withStims plan s) := by
  rw [arrival, nextPace_always hs.pace hs.paceAfter]
  rfl

/-- With no byte on the stream, `rx_valid = 0`. -/
theorem Steady.scriptPorts_of_nil (hs : Steady p s) (hq : s.env.rxQueue ++ p.arrives = []) : scriptPorts h s =
    { host := h, txReady := p.txReady, rxValid := false, rxData := p.rxIdle } := by
  rw [scriptPorts, hs.scriptEdge_eq, hs.arrival_eq, hq]
  rfl

/-- With one, it is offered exactly when the transport offers. -/
theorem Steady.scriptPorts_of_cons (hs : Steady p s) {b : Byte} {q : List Byte}
    (hq : s.env.rxQueue ++ p.arrives = b :: q) : scriptPorts h s =
    { host := h, txReady := p.txReady, rxValid := p.rxOffer, rxData := if p.rxOffer then b else p.rxIdle } := by
  rw [scriptPorts, hs.scriptEdge_eq, hs.arrival_eq, hq]
  rfl

theorem Steady.txReady_scriptPorts (hs : Steady p s) : (scriptPorts h s).txReady = p.txReady := by
  cases hq : s.env.rxQueue ++ p.arrives with
  | nil => rw [hs.scriptPorts_of_nil hq]
  | cons b q => rw [hs.scriptPorts_of_cons hq]

/-- A transport that never offers gives no byte. -/
theorem Steady.rxValid_of_not_offer (hs : Steady p s) (ho : p.rxOffer = false) : (scriptPorts h s).rxValid = false := by
  cases hq : s.env.rxQueue ++ p.arrives with
  | nil => rw [hs.scriptPorts_of_nil hq]
  | cons b q => rw [hs.scriptPorts_of_cons hq]; exact ho

end

theorem txValid_of_busy {st : EncState} (h : st ≠ .encIdle) : txValid st = true := by simp [txValid, h]

namespace Driven

variable {p : Pace} {h : HostPorts} {plan : List Stim} {s t : State}

theorem steady (hd : Driven h plan s t) (hs : Steady p s) : Steady p t := by
  have henv := hd.env
  rw [hs.arrival_eq] at henv
  exact ⟨by rw [henv]; exact hs.pace, by rw [henv]; exact hs.paceAfter, by rw [henv]; exact hs.wired⟩

/-! #### `tx` -/

/-- The byte on offer passes exactly when the encoder offers one and the transport accepts (20_memory.md R60). -/
theorem tx (hd : Driven h plan s t) (hs : Steady p s) (hr : h.rst = false) :
    if txValid s.enc.encState && p.txReady then
      t.env.txLine = s.env.txLine ++ [txData s.enc] ∧ t.env.txSent = s.env.txSent ++ [txData s.enc]
    else t.env.txLine = s.env.txLine ∧ t.env.txSent = s.env.txSent := by
  have hfire : txFire (edgePorts (scriptEdge h s) (arrival plan s)) (arrival plan s) =
      (txValid s.enc.encState && p.txReady) := by
    rw [txFire, edgePorts_host, show (scriptEdge h s).host.rst = false from hr,
      show (edgePorts (scriptEdge h s) (arrival plan s)).txReady = p.txReady from hs.txReady_scriptPorts]
    rfl
  obtain ⟨-, -, hline, -, hsent, -⟩ := nextPace_frame s.env
  rw [hd.env, transport_txLine, transport_txSent, transportTakes_eq_txFire hr, hfire]
  split
  · exact ⟨congrArg (· ++ _) hline, congrArg (· ++ _) hsent⟩
  · exact ⟨hline, hsent⟩

/-- Nothing passes while the encoder is idle. -/
theorem tx_of_idle (hd : Driven h plan s t) (hs : Steady p s) (hr : h.rst = false) (hi : s.enc.encState = .encIdle) :
    t.env.txLine = s.env.txLine ∧ t.env.txSent = s.env.txSent := by
  have htx := hd.tx hs hr
  rwa [hi, show txValid .encIdle = false from rfl, Bool.false_and, if_neg Bool.false_ne_true] at htx

/-- A busy encoder whose byte is accepted fires it (41_encoder.md R135 to R139). -/
theorem fires (hd : Driven h plan s t) (hs : Steady p s) (hr : h.rst = false) (hb : s.enc.encState ≠ .encIdle)
    (hready : p.txReady = true) : t.enc = s.enc.fired ∧ t.env.txLine = s.env.txLine ++ [txData s.enc] ∧
      t.env.txSent = s.env.txSent ++ [txData s.enc] := by
  have htx := hd.tx hs hr
  rw [txValid_of_busy hb, hready, if_pos (by rfl)] at htx
  refine ⟨?_, htx⟩
  have hports : (scriptPorts h s).txReady = true := hs.txReady_scriptPorts.trans hready
  rw [enc_eq_of_encView hd.enc]
  cases he : s.enc.encState
  case encIdle => exact absurd he hb
  all_goals
    rw [selectEnc, hports, Enc.fired, he]
    exact congrArg State.enc (if_pos he)

/-- One whose byte is not accepted waits (41_encoder.md R140). -/
theorem stalls (hd : Driven h plan s t) (hs : Steady p s) (hr : h.rst = false) (hb : s.enc.encState ≠ .encIdle)
    (hready : p.txReady = false) : t.enc = s.enc ∧ t.env.txSent = s.env.txSent := by
  have htx := hd.tx hs hr
  rw [hready, Bool.and_false, if_neg Bool.false_ne_true] at htx
  obtain ⟨-, hsent⟩ := htx
  refine ⟨?_, hsent⟩
  rw [enc_eq_of_encView hd.enc, effect_selectEnc_eq_self (fun hi => absurd hi hb)
    (fun _ => hs.txReady_scriptPorts.trans hready)]

/-! #### `rx` -/

theorem rxQueue (hd : Driven h plan s t) (hs : Steady p s) (hr : h.rst = false) : t.env.rxQueue =
    if (scriptPorts h s).rxValid && s.dec.decState.reading then (s.env.rxQueue ++ p.arrives).tail
    else s.env.rxQueue ++ p.arrives := by
  have hgives : transportGives (scriptEdge h s) (arrival plan s) =
      ((scriptPorts h s).rxValid && s.dec.decState.reading) := by
    have hloop : (scriptEdge h s).loopback = false := hs.wired
    rw [transportGives_eq_rxFire hr hloop, rxFire, edgePorts_host, show (scriptEdge h s).host.rst = false from hr]
    rfl
  rw [hd.env, transport_rxQueue, hgives, hs.arrival_eq]
  rfl

/-- Outside an attempt no byte is taken. -/
theorem rxQueue_of_not_reading (hd : Driven h plan s t) (hs : Steady p s) (hr : h.rst = false)
    (hn : s.dec.decState.reading = false) : t.env.rxQueue = s.env.rxQueue ++ p.arrives := by
  rw [hd.rxQueue hs hr, hn, Bool.and_false, if_neg Bool.false_ne_true]

/-- An attempt to which no byte is offered waits (42_decoder.md R174). -/
theorem waits (hd : Driven h plan s t) (hs : Steady p s) (hr : h.rst = false) (hread : s.dec.decState.reading = true)
    (hv : (scriptPorts h s).rxValid = false) :
    decView t = decView s ∧ t.env.rxQueue = s.env.rxQueue ++ p.arrives := by
  rw [hd.dec, effect_selectDec rfl, hread, hd.rxQueue hs hr, hv]
  exact ⟨rfl, rfl⟩

/-- An attempt to which the head of the stream is offered takes it. -/
theorem takes (hd : Driven h plan s t) (hs : Steady p s) (hr : h.rst = false) (hread : s.dec.decState.reading = true)
    (ho : p.rxOffer = true) {b : Byte} {q : List Byte} (hq : s.env.rxQueue ++ p.arrives = b :: q) :
    decView t = decView (takeByte b s) ∧ t.env.rxQueue = q := by
  rw [hd.dec, effect_selectDec rfl, hread, hd.rxQueue hs hr, hs.scriptPorts_of_cons hq, ho, hread, hq]
  exact ⟨rfl, rfl⟩

end Driven

end Sys2Proof.Machine
end

section
/-! SUPPORT. The calls of a script on `CRCU` and `ENC` (30_encoding.md R93): `crc.of`, `enc.send`, and the wait for
`enc_busy` that a stalled transport never ends (70_reset_and_hazards.md R241). -/

namespace Sys2Proof.Machine

/-! #### `crc.of` -/

/-- The bytes put are folded into `crc_q`, one at an edge. -/
theorem run_crcPuts (bs : List Byte) (rest : List Stim) {s : State}
    (h : s.env.stims = script (bs.map .crcPut) ++ rest) :
    ∃ t, Host.Core.run Sys2Proof.core bs.length s = .next t ∧ t.env.stims = rest ∧
      t.crcu.crcQ = bs.foldl crc8Update s.crcu.crcQ ∧ t.env.answers = s.env.answers := by
  induction bs generalizing s with
  | nil => exact ⟨s, run_zero s, h, rfl, rfl⟩
  | cons b bs ih =>
    obtain ⟨u, hu, hcrc, hstims, hanswers⟩ := step_crcPut (rest := script (bs.map .crcPut) ++ rest) h
    obtain ⟨t, ht, hrest, hcrc', hanswers'⟩ := ih hstims
    exact ⟨t, (run_succ hu _).trans ht, hrest, by rw [hcrc', hcrc]; rfl, hanswers'.trans hanswers⟩

theorem script_crcOf (bs : List Byte) (rest : List Stim) : script (crcOf bs) ++ rest =
    .stmt .crcClr :: (script (bs.map .crcPut) ++ .stmt .crcGet :: rest) := by
  simp [script, crcOf]

/-- `crc.of` reads `crc8` of its bytes (40_crc8.md R112). -/
theorem run_crcOf (bs : List Byte) (rest : List Stim) {s : State} (h : s.env.stims = script (crcOf bs) ++ rest) :
    ∃ t, Host.Core.run Sys2Proof.core (bs.length + 2) s = .next t ∧ t.env.stims = rest ∧ t.crcu.crcQ = crc8 bs ∧
      t.env.answers = s.env.answers ++ [.value (crc8 bs)] := by
  rw [script_crcOf] at h
  obtain ⟨u, hu, hclr, hstims, hanswers⟩ := step_crcClr h
  obtain ⟨v, hv, hstims', hcrc, hanswers'⟩ := run_crcPuts bs _ hstims
  have hcrc8 : v.crcu.crcQ = crc8 bs := by rw [hcrc, hclr]; rfl
  refine ⟨_, (run_succ hu _).trans ((run_add bs.length 1 hv).trans (run_succ (step_crcGet hstims') 0)), rfl, hcrc8, ?_⟩
  show v.env.answers ++ [.value v.crcu.crcQ] = _
  rw [hcrc8, hanswers', hanswers]

/-! #### `enc.send` -/

/-- The bytes of the frame in flight that have not fired. -/
def encRest (e : Enc) : List Byte :=
  if e.encState = .encIdle then [] else (encFrame e).encode.drop (encPosition e)

theorem encRest_of_idle {e : Enc} (h : e.encState = .encIdle) : encRest e = [] := if_pos h

/-- The byte on offer is the first of them, and firing it leaves the others. -/
theorem encRest_of_busy {e : Enc} (hi : EncInv e) (hs : e.encState ≠ .encIdle) :
    encRest e = txData e :: encRest e.fired := by
  rw [encRest, if_neg hs, List.drop_eq_getElem?_toList_append, encode_getElem?_encPosition hi hs]
  rcases encPosition_fired hi hs with ⟨hcrc, hidle⟩ | ⟨hbusy, hpos⟩
  · have hall : (encFrame e).encode.drop (encPosition e + 1) = [] := by
      rw [← take_encode_encCrc hi hcrc, List.drop_take_self]
    rw [encRest_of_idle hidle, hall]
    rfl
  · rw [encRest, if_neg hbusy, encFrame_fired, hpos]
    rfl

/-- The waiting half of `enc.send`, with a transport that accepts at once: every byte left fires, then the wait ends. -/
theorem run_encAwait (w : List Byte) (rest : List Stim) {s : State} (hp : Steady Pace.ready s) (hi : EncInv s.enc)
    (h : s.env.stims = .stmt .encAwait :: rest) (hw : encRest s.enc = w) :
    ∃ t, Host.Core.run Sys2Proof.core (w.length + 1) s = .next t ∧ t.env.stims = rest ∧ t.enc.encState = .encIdle ∧
      t.enc.encFault = s.enc.encFault ∧ t.env.txLine = s.env.txLine ++ w ∧ t.env.txSent = s.env.txSent ++ w := by
  induction w generalizing s with
  | nil =>
    have hs : s.enc.encState = .encIdle := by
      by_contra hs
      rw [encRest_of_busy hi hs] at hw
      cases hw
    exact ⟨_, run_succ (step_encAwait_idle h hs) 0, rfl, hs, rfl, (List.append_nil _).symm, (List.append_nil _).symm⟩
  | cons b w ih =>
    have hs : s.enc.encState ≠ .encIdle := fun hs => by
      rw [encRest_of_idle hs] at hw
      cases hw
    rw [encRest_of_busy hi hs] at hw
    injection hw with hb hw
    obtain ⟨u, hu, hd⟩ := exists_driven h (act_encAwait_busy hs) rfl
    obtain ⟨henc, hline, hsent⟩ := hd.fires hp rfl hs rfl
    obtain ⟨t, ht, hrest, hidle, hfault, hline', hsent'⟩ :=
      ih (hd.steady hp) (henc ▸ encInv_fired hi) hd.stims (henc ▸ hw)
    refine ⟨t, (run_succ hu _).trans ht, hrest, hidle, ?_, ?_, ?_⟩
    · rw [hfault, henc, encFault_fired]
    · rw [hline', hline, hb, List.append_assoc]; rfl
    · rw [hsent', hsent, hb, List.append_assoc]; rfl

/-- `enc.send` of a legal frame fires its encoding (41_encoder.md R130). -/
theorem run_encSend_legal {s : State} (hp : Steady Pace.ready s) (hs : s.enc.encState = .encIdle) {id len : Byte}
    {data : List Byte} {rest : List Stim} (h : s.env.stims = .stmt (.encSend id len data) :: rest)
    (hlen : len.toNat ≤ 8) : ∃ t, Host.Core.run Sys2Proof.core (6 + len.toNat) s = .next t ∧ t.env.stims = rest ∧
      t.enc.encState = .encIdle ∧ t.enc.encFault = s.enc.encFault ∧
      t.env.txLine = s.env.txLine ++ (Frame.ofPayload id (Payload.ofList data) len.toNat).encode ∧
      t.env.txSent = s.env.txSent ++ (Frame.ofPayload id (Payload.ofList data) len.toNat).encode := by
  obtain ⟨u, hu, hd⟩ := exists_driven h (act_encSend_idle id len data hs) rfl
  have henc := hd.enc_of_load hs rfl hlen
  obtain ⟨hline, hsent⟩ := hd.tx_of_idle hp rfl hs
  have hinv : EncInv u.enc := by rw [henc]; exact ⟨hlen, Nat.zero_le _, rfl, rfl⟩
  have hrest : encRest u.enc = (Frame.ofPayload id (Payload.ofList data) len.toNat).encode := by rw [henc]; rfl
  obtain ⟨t, ht, hstims, hidle, hfault, hline', hsent'⟩ := run_encAwait _ rest (hd.steady hp) hinv hd.stims hrest
  have hcount : 6 + len.toNat = (Frame.ofPayload id (Payload.ofList data) len.toNat).encode.length + 1 + 1 := by
    rw [length_encode_ofPayload _ _ hlen]; omega
  refine ⟨t, ?_, hstims, hidle, by rw [hfault, henc], by rw [hline', hline], by rw [hsent', hsent]⟩
  rw [hcount, run_succ hu]
  exact ht

/-- `enc.send` of an illegal length only sets `enc_fault` (41_encoder.md R134). -/
theorem run_encSend_illegal {s : State} (hp : Steady Pace.ready s) (hs : s.enc.encState = .encIdle) {id len : Byte}
    {data : List Byte} {rest : List Stim} (h : s.env.stims = .stmt (.encSend id len data) :: rest)
    (hlen : 8 < len.toNat) : ∃ t, Host.Core.run Sys2Proof.core 2 s = .next t ∧ t.env.stims = rest ∧
      t.enc = { s.enc with encFault := true } ∧ t.env.txLine = s.env.txLine ∧ t.env.txSent = s.env.txSent := by
  obtain ⟨u, hu, hd⟩ := exists_driven h (act_encSend_idle id len data hs) rfl
  have henc := hd.enc_of_loadFault hs rfl hlen
  obtain ⟨hline, hsent⟩ := hd.tx_of_idle hp rfl hs
  have hidle : u.enc.encState = .encIdle := by rw [henc]; exact hs
  exact ⟨_, (run_succ hu 1).trans (run_succ (step_encAwait_idle hd.stims hidle) 0), rfl, henc, hline, hsent⟩

/-- With a transport that never accepts, the wait for `enc_busy` lasts for ever. -/
theorem run_encAwait_stalled {p : Pace} (hready : p.txReady = false) {s : State} (hp : Steady p s)
    (hs : s.enc.encState ≠ .encIdle) {rest : List Stim} (h : s.env.stims = .stmt .encAwait :: rest) (k : Nat) :
    ∃ t, Host.Core.run Sys2Proof.core k s = .next t ∧ t.enc = s.enc ∧ t.env.txSent = s.env.txSent ∧
      t.env.stims = s.env.stims := by
  induction k generalizing s with
  | zero => exact ⟨s, run_zero s, rfl, rfl, rfl⟩
  | succ k ih =>
    obtain ⟨u, hu, hd⟩ := exists_driven h (act_encAwait_busy hs) rfl
    obtain ⟨henc, hsent⟩ := hd.stalls hp rfl hs hready
    obtain ⟨t, ht, henc', hsent', hstims⟩ := ih (hd.steady hp) (henc ▸ hs) hd.stims
    exact ⟨t, (run_succ hu k).trans ht, henc'.trans henc, hsent'.trans hsent, hstims.trans (hd.stims.trans h.symm)⟩

end Sys2Proof.Machine
end

section
/-! SUPPORT. The calls of a script on `DEC` (30_encoding.md R93): `dec.try` and `dec.all`, with a transport that never
stalls, and the wait for `dec_done` that a stalled one never ends (70_reset_and_hazards.md R241). -/

namespace Sys2Proof.Machine

theorem attemptResult_of_reading {d : Dec} (h : d.decState.reading = true) : attemptResult d = none := by
  unfold attemptResult
  cases hs : d.decState <;> first | rfl | (rw [hs] at h; cases h)

/-- In an attempt, the state is the one in which `decode` of the bytes taken waits (42_decoder.md R181). -/
theorem DecRefines.decState_eq {s : State} (h : DecRefines s) (hr : s.dec.decState.reading = true) {st : DecState}
    {i : Nat} (hd : decode s.hist.rxTaken = .pending st i) : s.dec.decState = st := by
  unfold DecRefines at h
  cases hs : s.dec.decState <;> simp only [hs] at h hr
  case decIdle | accepted | rejected => cases hr
  case awaitStart | readId | readLen | readData | readChecksum =>
    rw [h] at hd
    injection hd

/-- The script waits in `dec.try` for an attempt whose bytes taken so far are `w`, in step with the registers of `DEC`,
with a transport that offers at once. -/
structure Trying (w : List Byte) (rest : List Stim) (s : State) : Prop where
  steady  : Steady Pace.ready s
  stims   : s.env.stims = .stmt .decAwait :: rest
  reading : s.dec.decState.reading = true
  inv     : DecInv s.dec
  trace   : DecTrace s
  taken   : s.hist.rxTaken = w

theorem Trying.refines {w : List Byte} {rest : List Stim} {s : State} (h : Trying w rest s) : DecRefines s :=
  decRefines_of_decTrace h.inv h.trace

/-- On the bytes taken `decode` waits, in the decoder's state. -/
theorem Trying.pending {w : List Byte} {rest : List Stim} {s : State} (h : Trying w rest s) :
    ∃ i, decode w = .pending s.dec.decState i := by
  obtain ⟨st, i, hd⟩ := h.refines.pending h.reading
  obtain rfl := h.refines.decState_eq h.reading hd
  exact ⟨i, h.taken ▸ hd⟩

/-- The first edge of `dec.try` begins an attempt and takes no byte (42_decoder.md R163). -/
theorem step_decTry {s : State} (hp : Steady Pace.ready s) (hs : s.dec.decState.reading = false) {rest : List Stim}
    (h : s.env.stims = .stmt .decTry :: rest) : ∃ t, step s = .next t ∧ Trying [] rest t ∧
      t.env.rxQueue = s.env.rxQueue ∧ t.env.answers = s.env.answers := by
  obtain ⟨t, ht, hd⟩ := exists_driven h (act_decTry_free hs) rfl
  have hview := hd.decView_of_start hs rfl
  have hdec := dec_eq_of_decView hview
  refine ⟨t, ht, ⟨hd.steady hp, hd.stims, by rw [hdec]; rfl, hdec ▸ decInv_startAttempt s,
    DecTrace.of_decView hview rfl, congrArg (fun v => v.2.1) hview⟩, ?_, hd.answers⟩
  exact (hd.rxQueue_of_not_reading hp rfl hs).trans (List.append_nil _)

/-- The next byte of the stream is taken: the attempt goes on, or it has ended and `decode` says with what. -/
theorem step_trying {w : List Byte} {rest : List Stim} {s : State} (h : Trying w rest s) {b : Byte} {q : List Byte}
    (hq : s.env.rxQueue = b :: q) : ∃ t, step s = .next t ∧ t.env.rxQueue = q ∧ t.env.answers = s.env.answers ∧
      (Trying (w ++ [b]) rest t ∨ Steady Pace.ready t ∧ t.env.stims = .stmt .decAwait :: rest ∧
        t.dec.decState.reading = false ∧
        ∃ r, attemptResult t.dec = some r ∧ decode (w ++ [b]) = .done r (w.length + 1)) := by
  obtain ⟨t, ht, hd⟩ := exists_driven h.stims (act_decAwait_waiting (attemptResult_of_reading h.reading)) rfl
  obtain ⟨hview, hqueue⟩ := hd.takes h.steady rfl h.reading rfl ((List.append_nil _).trans hq)
  have hdec := dec_eq_of_decView hview
  have hinv : DecInv t.dec := hdec ▸ decInv_takeByte b h.inv
  have htrace : DecTrace t := (decTrace_takeByte b h.inv h.trace).of_decView hview
  obtain ⟨htaken, -, hnext⟩ := takeByte_attempt h.reading b
  have htaken' : t.hist.rxTaken = w ++ [b] := by
    rw [← h.taken, ← htaken]
    exact congrArg (fun v => v.2.1) hview
  refine ⟨t, ht, hqueue, hd.answers, ?_⟩
  rw [← hdec] at hnext
  rcases hnext with ⟨hgo, -⟩ | ⟨hend, r, hr, -⟩
  · exact .inl ⟨hd.steady h.steady, hd.stims, hgo, hinv, htrace, htaken'⟩
  · refine .inr ⟨hd.steady h.steady, hd.stims, hend, r, hr, ?_⟩
    have hdone := (decRefines_of_decTrace hinv htrace).done hr
    rw [htaken'] at hdone
    simpa using hdone

/-- Where `decode` of the stream ends, the attempt takes the bytes `v` it consumes and the script reads the result. -/
theorem run_trying_done (q : List Byte) {w : List Byte} {rest : List Stim} {s : State} (h : Trying w rest s)
    (hq : s.env.rxQueue = q) {r : Result} {n : Nat} (hdone : decode (w ++ q) = .done r n) :
    ∃ v t, n = w.length + v.length ∧ q = v ++ t.env.rxQueue ∧ Host.Core.run Sys2Proof.core (v.length + 1) s = .next t ∧
      t.env.stims = rest ∧ t.env.answers = s.env.answers ++ [.result r] ∧ Steady Pace.ready t ∧
      t.dec.decState.reading = false := by
  induction q generalizing w s with
  | nil =>
    obtain ⟨i, hpending⟩ := h.pending
    rw [List.append_nil, hpending] at hdone
    cases hdone
  | cons b q ih =>
    obtain ⟨u, hu, hqueue, hanswers, hgo | ⟨hp, hstims, hend, r', hr', hdone'⟩⟩ := step_trying h hq
    · rw [List.append_cons] at hdone
      obtain ⟨v, t, hn, hsplit, ht, hrest, hread, hp, hend⟩ := ih hgo hqueue hdone
      refine ⟨b :: v, t, ?_, by rw [hsplit]; rfl, (run_succ hu _).trans ht, hrest, by rw [hread, hanswers], hp, hend⟩
      rw [hn, List.length_append, List.length_cons, List.length_nil, List.length_cons]
      omega
    · have hall := decode_append_of_done hdone' q
      rw [← List.append_cons, hdone] at hall
      injection hall with hr hn
      refine ⟨[b], _, hn, by rw [← hqueue]; rfl, (run_succ hu 1).trans (run_succ (step_decAwait_ended hstims hr') 0),
        rfl, ?_, ⟨hp.pace, hp.paceAfter, hp.wired⟩, hend⟩
      show u.env.answers ++ _ = _
      rw [hanswers, hr]

/-- Where it waits for more, the attempt takes all there is. -/
theorem run_trying_pending (q : List Byte) {w : List Byte} {rest : List Stim} {s : State} (h : Trying w rest s)
    (hq : s.env.rxQueue = q) {st : DecState} {i : Nat} (hpending : decode (w ++ q) = .pending st i) :
    ∃ t, Host.Core.run Sys2Proof.core q.length s = .next t ∧ Trying (w ++ q) rest t ∧ t.env.rxQueue = [] ∧
      t.env.answers = s.env.answers := by
  induction q generalizing w s with
  | nil => exact ⟨s, run_zero s, by rwa [List.append_nil], hq, rfl⟩
  | cons b q ih =>
    obtain ⟨u, hu, hqueue, hanswers, hgo | ⟨-, -, -, r', -, hdone'⟩⟩ := step_trying h hq
    · rw [List.append_cons] at hpending ⊢
      obtain ⟨t, ht, htry, hnil, hanswers'⟩ := ih hgo hqueue hpending
      exact ⟨t, (run_succ hu _).trans ht, htry, hnil, hanswers'.trans hanswers⟩
    · have hall := decode_append_of_done hdone' q
      rw [← List.append_cons, hpending] at hall
      cases hall

/-- An attempt to which no byte is offered stays as it is, for ever. -/
theorem run_decAwait_stalled {p : Pace} {s : State} (hp : Steady p s) (hr : s.dec.decState.reading = true)
    {rest : List Stim} (h : s.env.stims = .stmt .decAwait :: rest)
    (ho : p.rxOffer = false ∨ s.env.rxQueue = [] ∧ p.arrives = []) (k : Nat) :
    ∃ t, Host.Core.run Sys2Proof.core k s = .next t ∧ t.dec = s.dec ∧ t.env.answers = s.env.answers ∧
      t.env.stims = s.env.stims ∧ (p.arrives = [] → t.env.rxQueue = s.env.rxQueue) := by
  induction k generalizing s with
  | zero => exact ⟨s, run_zero s, rfl, rfl, rfl, fun _ => rfl⟩
  | succ k ih =>
    obtain ⟨u, hu, hd⟩ := exists_driven h (act_decAwait_waiting (attemptResult_of_reading hr)) rfl
    have hvalid : (scriptPorts HostPorts.quiet s).rxValid = false := by
      rcases ho with ho | ⟨hnil, harr⟩
      · exact hp.rxValid_of_not_offer ho
      · rw [hp.scriptPorts_of_nil (by rw [hnil, harr]; rfl)]
    obtain ⟨hview, hqueue⟩ := hd.waits hp rfl hr hvalid
    have hdec := dec_eq_of_decView hview
    have hstill (harr : p.arrives = []) : u.env.rxQueue = s.env.rxQueue := by rw [hqueue, harr, List.append_nil]
    obtain ⟨t, ht, hdec', hanswers, hstims, hqueue'⟩ := ih (hd.steady hp) (hdec ▸ hr) hd.stims
      (ho.imp_right fun ⟨hnil, harr⟩ => ⟨(hstill harr).trans hnil, harr⟩)
    exact ⟨t, (run_succ hu k).trans ht, hdec'.trans hdec, hanswers.trans hd.answers,
      hstims.trans (hd.stims.trans h.symm), fun harr => (hqueue' harr).trans (hstill harr)⟩

section

variable {s : State} (hp : Steady Pace.ready s) (hs : s.dec.decState.reading = false) {rest : List Stim}
include hp hs

/-- `dec.try` where `decode` of the stream ends. -/
theorem run_decTry_done (h : s.env.stims = .stmt .decTry :: rest) {r : Result} {n : Nat}
    (hdone : decode s.env.rxQueue = .done r n) : ∃ t, Host.Core.run Sys2Proof.core (n + 2) s = .next t ∧
      t.env.stims = rest ∧ t.env.answers = s.env.answers ++ [.result r] ∧ t.env.rxQueue = s.env.rxQueue.drop n ∧
      Steady Pace.ready t ∧ t.dec.decState.reading = false := by
  obtain ⟨u, hu, htry, hqueue, hanswers⟩ := step_decTry hp hs h
  obtain ⟨v, t, hn, hsplit, ht, hrest, hread, hpt, hend⟩ := run_trying_done s.env.rxQueue htry hqueue hdone
  rw [List.length_nil, Nat.zero_add] at hn
  refine ⟨t, ?_, hrest, hread.trans (by rw [hanswers]), ?_, hpt, hend⟩
  · rw [hn]
    exact (run_succ hu _).trans ht
  · rw [hsplit, hn, List.drop_left]

/-- `dec.try` where it waits for more. -/
theorem run_decTry_pending (h : s.env.stims = .stmt .decTry :: rest) {st : DecState} {i : Nat}
    (hpending : decode s.env.rxQueue = .pending st i) (k : Nat) :
    ∃ t, Host.Core.run Sys2Proof.core (s.env.rxQueue.length + 1 + k) s = .next t ∧ t.dec.decState = st ∧
      t.env.answers = s.env.answers ∧ t.env.rxQueue = [] ∧ t.env.stims = .stmt .decAwait :: rest ∧
      t.dec.decState.reading = true := by
  obtain ⟨u, hu, htry, hqueue, hanswers⟩ := step_decTry hp hs h
  obtain ⟨v, hv, htry', hnil, hanswers'⟩ := run_trying_pending s.env.rxQueue htry hqueue hpending
  obtain ⟨t, ht, hdec, hanswers'', hstims, hqueue'⟩ :=
    run_decAwait_stalled htry'.steady htry'.reading htry'.stims (.inr ⟨hnil, rfl⟩) k
  have hst : v.dec.decState = st := by
    obtain ⟨j, hj⟩ := htry'.pending
    rw [List.nil_append, hpending] at hj
    injection hj with hst
    exact hst.symm
  refine ⟨t, ?_, by rw [hdec, hst], by rw [hanswers'', hanswers', hanswers], (hqueue' rfl).trans hnil,
    hstims.trans htry'.stims, hdec ▸ htry'.reading⟩
  rw [Nat.add_right_comm, run_succ hu, run_add _ k hv, ht]

end

/-- `dec.all` gives the results of `decode_all` and takes the whole stream (42_decoder.md R184), by the length of the
stream: each attempt that ends consumes a byte at least (R161). -/
theorem run_decAll {rest : List Stim} {s : State} (hp : Steady Pace.ready s) (hs : s.dec.decState.reading = false)
    (h : s.env.stims = .stmt .decAll :: rest) : ∃ (k : Nat) (t : State), Host.Core.run Sys2Proof.core k s = .next t ∧
      t.env.answers = s.env.answers ++ (decodeAll s.env.rxQueue).map .result ∧ t.env.rxQueue = [] ∧
      (t.env.stims = rest ∨
        t.dec.decState.reading = true ∧ t.env.stims = .stmt .decAwait :: .stmt .decAll :: rest) := by
  have hremain : bytesRemain s = !s.env.rxQueue.isEmpty := by rw [bytesRemain, hp.wired]; rfl
  have hstep := step_decAll h
  by_cases hq : s.env.rxQueue = []
  · rw [hremain, hq] at hstep
    refine ⟨1, _, run_succ hstep 0, ?_, hq, .inl rfl⟩
    rw [hq]
    exact (List.append_nil _).symm
  · have hmore : (!s.env.rxQueue.isEmpty) = true := by simpa using hq
    rw [hremain, if_pos hmore] at hstep
    have hpu := steady_withStims hp (.stmt .decTry :: .stmt .decAll :: rest)
    cases hd : decode s.env.rxQueue with
    | pending st i =>
      obtain ⟨t, ht, -, hanswers, hnil, hstims, hread⟩ := run_decTry_pending hpu hs rfl hd 0
      refine ⟨_, t, (run_succ hstep _).trans ht, ?_, hnil, .inr ⟨hread, hstims⟩⟩
      rw [decodeAll_of_pending hd, hanswers]
      exact (List.append_nil _).symm
    | done r n =>
      obtain ⟨v, hv, hstims, hanswers, hdrop, hpv, hend⟩ := run_decTry_done hpu hs rfl hd
      have hdrop : v.env.rxQueue = s.env.rxQueue.drop n := hdrop
      obtain ⟨k, t, ht, hanswers', hnil, hleft⟩ := run_decAll hpv hend hstims
      refine ⟨_, t, (run_succ hstep _).trans ((run_add _ k hv).trans ht), ?_, hnil, hleft⟩
      rw [hanswers', hanswers, hdrop, decodeAll_of_done hd, List.append_assoc]
      rfl
termination_by s.env.rxQueue.length
decreasing_by
  have hbounds := decode_done_bounds hd
  rw [hdrop, List.length_drop]
  omega

end Sys2Proof.Machine

namespace Sys2Proof.Proofs

open Machine

/-- Settles O49: each call is followed edge by edge, and its waiting half by induction on the bytes still to move. -/
theorem scriptCallsGiveTheFunctionsResults : Obligations.ScriptCallsGiveTheFunctionsResults := by
  refine ⟨fun s bs rest h => run_crcOf bs rest h, fun s f rest h => ?_,
    fun s id len data rest hpace hafter hw hs h => ?_,
    fun s rest hpace hafter hw hs h => ?_, fun s rest hpace hafter hw hs h => ?_,
    fun s p rest hpace hafter hready hw hs h k => ?_, fun s p rest hpace hafter ho hw hs h k => ?_⟩
  · obtain ⟨t, ht, hstims, -, hanswers⟩ := run_crcOf f.body rest h
    have hcount : 4 + f.data.length = f.body.length + 2 := by simp only [Frame.body, List.length_cons]; omega
    exact ⟨t, hcount ▸ ht, hstims, hanswers⟩
  · exact ⟨run_encSend_legal ⟨hpace, hafter, hw⟩ hs h, run_encSend_illegal ⟨hpace, hafter, hw⟩ hs h⟩
  · refine ⟨fun r n hdone => ?_, fun st i hpending k => ?_⟩
    · obtain ⟨t, ht, hstims, hanswers, hqueue, -, -⟩ := run_decTry_done ⟨hpace, hafter, hw⟩ hs h hdone
      exact ⟨t, ht, hstims, hanswers, hqueue⟩
    · obtain ⟨t, ht, hst, hanswers, hqueue, hstims, -⟩ := run_decTry_pending ⟨hpace, hafter, hw⟩ hs h hpending k
      exact ⟨t, ht, hst, hanswers, hqueue, hstims⟩
  · exact run_decAll ⟨hpace, hafter, hw⟩ hs h
  · exact run_encAwait_stalled hready ⟨hpace, hafter, hw⟩ hs h k
  · obtain ⟨t, ht, hdec, hanswers, hstims, -⟩ := run_decAwait_stalled ⟨hpace, hafter, hw⟩ hs h (.inl ho) k
    exact ⟨t, ht, hdec, hanswers, hstims⟩

end Sys2Proof.Proofs
end

section
/-! SUPPORT. The byte function `T` of 40_crc8.md R116: its bits, its linearity over exclusive-or, that it is injective, and
the two bytes it fixes (R113). -/

namespace Sys2Proof.Machine

/-! #### The shift step, bit by bit (40_crc8.md R110) -/

theorem getLsbD_crc8Bit (c : Byte) (i : Nat) :
    (crc8Bit c).getLsbD i = ((c <<< 1).getLsbD i ^^ (c.getLsbD 7 && Config.poly.getLsbD i)) := by
  rw [crc8Bit]
  cases c.getLsbD 7
  · exact (Bool.xor_false _).symm
  · exact BitVec.getLsbD_xor

theorem getLsbD_crc8Bit_zero (c : Byte) : (crc8Bit c).getLsbD 0 = c.getLsbD 7 := by
  rw [getLsbD_crc8Bit, BitVec.getLsbD_shiftLeft, show Config.poly.getLsbD 0 = true by decide]
  exact (Bool.false_xor _).trans (Bool.and_true _)

theorem getLsbD_crc8Bit_succ (c : Byte) {i : Nat} (h : i < 7) :
    (crc8Bit c).getLsbD (i + 1) = (c.getLsbD i ^^ (c.getLsbD 7 && decide (i < 2))) := by
  rw [getLsbD_crc8Bit, BitVec.getLsbD_shiftLeft, show Config.poly.getLsbD (i + 1) = decide (i < 2) by decide +revert]
  simp [Nat.succ_lt_succ h]

theorem toNat_crc8Bit (c : Byte) :
    (crc8Bit c).toNat = if 128 ≤ c.toNat then Nat.xor (2 * c.toNat % 256) 7 else 2 * c.toNat % 256 := by
  have hmsb : c.getLsbD 7 = decide (128 ≤ c.toNat) := c.msb_eq_getLsbD_last.symm.trans c.msb_eq_decide
  have hshift : (c <<< 1).toNat = 2 * c.toNat % 256 := by rw [BitVec.toNat_shiftLeft, Nat.shiftLeft_eq, Nat.mul_comm]
  rw [crc8Bit, hmsb]
  simp only [decide_eq_true_eq]
  split
  · rw [BitVec.toNat_xor, hshift]; rfl
  · exact hshift

/-- Bit 0 of the result is bit 7, and with bit 7 known every other bit is read one place up. -/
theorem crc8Bit_injective : Function.Injective crc8Bit := by
  intro x y h
  have h7 : x.getLsbD 7 = y.getLsbD 7 := by rw [← getLsbD_crc8Bit_zero, h, getLsbD_crc8Bit_zero]
  apply BitVec.eq_of_getLsbD_eq
  intro i hi
  rcases Nat.lt_or_ge i 7 with hlt | hge
  · have hbit := congrArg (BitVec.getLsbD · (i + 1)) h
    simpa only [getLsbD_crc8Bit_succ _ hlt, h7, Bool.xor_left_inj] using hbit
  · rwa [show i = 7 by omega]

/-! #### `T` (40_crc8.md R116) -/

theorem crc8Update_eq_iterate (c b : Byte) : crc8Update c b = crc8Bit^[8] (c ^^^ b) := rfl

theorem crc8T_eq_iterate (x : Byte) : crc8T x = crc8Bit^[8] x := congrArg crc8Bit^[8] BitVec.zero_xor

theorem crc8Update_eq_crc8T (c b : Byte) : crc8Update c b = crc8T (c ^^^ b) := (crc8T_eq_iterate _).symm

theorem crc8T_xor (x y : Byte) : crc8T (x ^^^ y) = crc8T x ^^^ crc8T y := by
  simp only [crc8T_eq_iterate, Function.iterate_succ_apply', Function.iterate_zero_apply, crc8Bit_xor]

theorem crc8T_injective : Function.Injective crc8T := by
  rw [funext crc8T_eq_iterate]; exact crc8Bit_injective.iterate 8

/-- The eight shift steps, bit by bit (40_crc8.md R116, L5). -/
theorem getLsbD_crc8T (x : Byte) :
    (crc8T x).getLsbD 0 = (x.getLsbD 0 ^^ x.getLsbD 6 ^^ x.getLsbD 7) ∧
      (crc8T x).getLsbD 1 = (x.getLsbD 0 ^^ x.getLsbD 1 ^^ x.getLsbD 6) ∧
      (crc8T x).getLsbD 2 = (x.getLsbD 0 ^^ x.getLsbD 1 ^^ x.getLsbD 2 ^^ x.getLsbD 6) ∧
      (crc8T x).getLsbD 3 = (x.getLsbD 1 ^^ x.getLsbD 2 ^^ x.getLsbD 3 ^^ x.getLsbD 7) ∧
      (crc8T x).getLsbD 4 = (x.getLsbD 2 ^^ x.getLsbD 3 ^^ x.getLsbD 4) ∧
      (crc8T x).getLsbD 5 = (x.getLsbD 3 ^^ x.getLsbD 4 ^^ x.getLsbD 5) ∧
      (crc8T x).getLsbD 6 = (x.getLsbD 4 ^^ x.getLsbD 5 ^^ x.getLsbD 6) ∧
      (crc8T x).getLsbD 7 = (x.getLsbD 5 ^^ x.getLsbD 6 ^^ x.getLsbD 7) := by
  simp only [crc8T_eq_iterate, Function.iterate_succ_apply', Function.iterate_zero_apply, getLsbD_crc8Bit_zero,
    getLsbD_crc8Bit_succ, Nat.reduceLT, decide_true, decide_false, Bool.and_true, Bool.and_false, Bool.xor_false]
  cases x.getLsbD 7 <;> simp [Bool.xor_comm, Bool.xor_left_comm]

theorem crc8T_eq_self_iff : ∀ y : Byte, crc8T y = y ↔ y = 0x00 ∨ y = 0xFD := by decide

theorem crc8T_zero : crc8T 0x00 = 0x00 := by decide

/-! #### A function linear over exclusive-or is determined by its values on the one-bit bytes (40_crc8.md R116, L3) -/

theorem setWidth_succ_eq_xor_twoPow {x : Byte} {k : Nat} (h : x.getLsbD k = true) :
    (x.setWidth (k + 1)).setWidth 8 = (x.setWidth k).setWidth 8 ^^^ BitVec.twoPow 8 k := by
  apply BitVec.eq_of_getLsbD_eq
  intro i hi
  rcases Nat.lt_trichotomy i k with hik | rfl | hik
  · simp [hi, hik, Nat.lt_succ_of_lt hik, hik.ne]
  · simp [hi, h]
  · simp [hi, hik.ne', Nat.not_lt_of_gt hik, Nat.not_lt.mpr (Nat.succ_le_of_lt hik)]

/-- A byte is the exclusive-or of one-bit bytes. -/
theorem byte_xor_induction {P : Byte → Prop} (hzero : P 0x00) (hbit : ∀ i < 8, P (BitVec.twoPow 8 i))
    (hxor : ∀ x y, P x → P y → P (x ^^^ y)) (x : Byte) : P x := by
  have hlow : ∀ k ≤ 8, P ((x.setWidth k).setWidth 8) := by
    intro k hk
    induction k with
    | zero => rwa [BitVec.of_length_zero (x := x.setWidth 0)]
    | succ k ih =>
      cases h : x.getLsbD k
      · rw [BitVec.setWidth_setWidth_succ_eq_setWidth_setWidth_of_getLsbD_false h]
        exact ih (Nat.le_of_succ_le hk)
      · rw [setWidth_succ_eq_xor_twoPow h]
        exact hxor _ _ (ih (Nat.le_of_succ_le hk)) (hbit k hk)
  simpa only [BitVec.setWidth_eq] using hlow 8 le_rfl

theorem map_zero_of_xor {f : Byte → Byte} (hf : ∀ x y, f (x ^^^ y) = f x ^^^ f y) : f 0x00 = 0x00 := by
  have h := hf 0x00 0x00
  rwa [BitVec.xor_self, BitVec.xor_self] at h

theorem eq_of_xor_of_twoPow {f g : Byte → Byte} (hf : ∀ x y, f (x ^^^ y) = f x ^^^ f y)
    (hg : ∀ x y, g (x ^^^ y) = g x ^^^ g y) (h : ∀ i < 8, f (BitVec.twoPow 8 i) = g (BitVec.twoPow 8 i)) : f = g :=
  funext (byte_xor_induction ((map_zero_of_xor hf).trans (map_zero_of_xor hg).symm) h
    fun x y hx hy => by rw [hf, hg, hx, hy])

/-! #### `crc8_update` in its two arguments (40_crc8.md R116, L4) -/

theorem crc8Update_comm (c b : Byte) : crc8Update c b = crc8Update b c := by
  rw [crc8Update_eq_crc8T, crc8Update_eq_crc8T, BitVec.xor_comm]

theorem crc8Update_right_injective (c : Byte) : Function.Injective (fun b => crc8Update c b) := fun b d h => by
  simp only [crc8Update_eq_crc8T] at h
  exact (BitVec.xor_right_inj c).mp (crc8T_injective h)

theorem crc8Update_left_injective (b : Byte) : Function.Injective (fun c => crc8Update c b) := by
  simp only [crc8Update_comm _ b]
  exact crc8Update_right_injective b

theorem crc8Update_self (c : Byte) : crc8Update c c = 0x00 := by
  rw [crc8Update_eq_crc8T, BitVec.xor_self]; exact crc8T_zero

theorem crc8Update_xor_xor (c d a b : Byte) :
    crc8Update (c ^^^ d) (a ^^^ b) = crc8Update c a ^^^ crc8Update d b := by
  simp only [crc8Update_eq_crc8T, ← crc8T_xor]
  congr 1
  ac_rfl

end Sys2Proof.Machine

namespace Sys2Proof.Proofs

open Machine

/-- Settles O3: the shift step is linear and injective, and so is `T`, its eighth iterate. -/
theorem crcUpdateIsLinearAndBijective : Obligations.CrcUpdateIsLinearAndBijective := by
  refine ⟨crc8Update_eq_crc8T, crc8T_xor, crc8T_zero, by decide, ?_, crc8T_injective.bijective_of_finite,
    fun b => (crc8Update_left_injective b).bijective_of_finite,
    fun c => (crc8Update_right_injective c).bijective_of_finite, fun c b => ?_⟩
  · intro f hf h0 h1 h2 h3 h4 h5 h6 h7
    refine eq_of_xor_of_twoPow hf crc8T_xor fun i hi => ?_
    interval_cases i
    exacts [h0, h1, h2, h3, h4, h5, h6, h7]
  · rw [crc8Update_eq_crc8T]
    exact getLsbD_crc8T (c ^^^ b)

end Sys2Proof.Proofs
end

section
/-! SUPPORT. The checksum of a sequence: the order of its bytes (40_crc8.md R113), one changed byte, and the exclusive-or of
two sequences (R117). -/

namespace Sys2Proof.Machine

theorem crc8_append (xs ys : List Byte) : crc8 (xs ++ ys) = ys.foldl crc8Update (crc8 xs) := List.foldl_append

theorem crc8_pair_eq_crc8T (a b : Byte) : crc8 [a, b] = crc8T (crc8T a ^^^ b) := crc8Update_eq_crc8T (crc8T a) b

theorem crc8_zero_cons (xs : List Byte) : crc8 (0x00 :: xs) = crc8 xs := rfl

/-- By linearity the two orders agree exactly when `T` fixes the exclusive-or of the bytes. -/
theorem crc8_pair_comm_iff (a b : Byte) : crc8 [a, b] = crc8 [b, a] ↔ a ^^^ b = 0x00 ∨ a ^^^ b = 0xFD :=
  calc crc8 [a, b] = crc8 [b, a]
    _ ↔ crc8T a ^^^ b = crc8T b ^^^ a := by rw [crc8_pair_eq_crc8T, crc8_pair_eq_crc8T, crc8T_injective.eq_iff]
    _ ↔ crc8T (a ^^^ b) = a ^^^ b := by
      rw [crc8T_xor, ← BitVec.xor_eq_zero_iff, ← BitVec.xor_eq_zero_iff (x := crc8T a ^^^ crc8T b)]
      ac_nf
    _ ↔ a ^^^ b = 0x00 ∨ a ^^^ b = 0xFD := crc8T_eq_self_iff _

theorem foldl_crc8Update_injective (ys : List Byte) : Function.Injective (fun c => ys.foldl crc8Update c) := by
  induction ys with
  | nil => exact Function.injective_id
  | cons y ys ih => exact ih.comp (crc8Update_left_injective y)

theorem crc8_ne_of_ne_at {a b : Byte} (h : a ≠ b) (pre post : List Byte) :
    crc8 (pre ++ a :: post) ≠ crc8 (pre ++ b :: post) := by
  rw [crc8_append, crc8_append]
  exact (foldl_crc8Update_injective post).ne ((crc8Update_right_injective (crc8 pre)).ne h)

theorem foldl_crc8Update_zipWith_xor (xs ys : List Byte) (h : xs.length = ys.length) (c d : Byte) :
    (List.zipWith (· ^^^ ·) xs ys).foldl crc8Update (c ^^^ d) =
      xs.foldl crc8Update c ^^^ ys.foldl crc8Update d := by
  induction xs generalizing ys c d with
  | nil => rw [List.length_eq_zero_iff.mp h.symm]; rfl
  | cons x xs ih =>
    obtain ⟨y, ys, rfl⟩ := List.exists_cons_of_length_eq_add_one h.symm
    rw [List.zipWith_cons_cons, List.foldl_cons, crc8Update_xor_xor]
    exact ih ys (Nat.succ.inj h) _ _

theorem crc8_zipWith_xor (xs ys : List Byte) (h : xs.length = ys.length) :
    crc8 (List.zipWith (· ^^^ ·) xs ys) = crc8 xs ^^^ crc8 ys :=
  foldl_crc8Update_zipWith_xor xs ys h Config.crcInit Config.crcInit

end Sys2Proof.Machine

namespace Sys2Proof.Proofs

open Machine

/-- Settles O2: `T` is linear and injective, so the exchange turns on the two bytes that `T` fixes. -/
theorem crcIsOrderSensitiveUpToTwoFixedPoints : Obligations.CrcIsOrderSensitiveUpToTwoFixedPoints := by
  refine ⟨crc8T_eq_self_iff, crc8_pair_eq_crc8T, crc8_pair_comm_iff, ?_⟩
  have hT : crc8T 0x01 = 0x07 ∧ crc8T 0x02 = 0x0E ∧ crc8T 0xFD = 0xFD := by decide
  simp only [crc8_pair_eq_crc8T, hT, crc8T_zero]
  decide

/-- Settles O4: one byte at a time, from the linearity and injectivity of `crc8_update`. -/
theorem crcSequenceLaws : Obligations.CrcSequenceLaws := by
  have hzeros : crc8 [0x00, 0x00] = 0x00 := crc8_zero_cons [0x00]
  have hvalid : validFrame [0xAA, 0x00, 0x00, 0x00] = true := by
    simpa [validFrame, Config.start] using hzeros.symm
  exact ⟨crc8_append, fun xs => (crc8_snoc xs _).trans (crc8Update_self _), crc8Update_self, crc8_zero_cons, hzeros,
    hvalid, fun pre post _ _ h => crc8_ne_of_ne_at h pre post, crc8_zipWith_xor⟩

/-- Settles O1: the shift step in naturals, `crc8` one byte at a time, and the rules' examples by computation. -/
theorem crcFunctionsFollowTheAlgorithm : Obligations.CrcFunctionsFollowTheAlgorithm :=
  ⟨toNat_crc8Bit, by decide, crc8Update_eq_iterate, by decide, by decide, crc8_nil, crc8_snoc, by decide⟩

end Sys2Proof.Proofs
end

section
/-! SUPPORT. The operations of `CRCU` (40_crc8.md R118 to R120): the selection, and bytes fed with holds between them. -/

namespace Sys2Proof.Machine

theorem selectCrcu_of_clr {h : HostPorts} (hclr : h.crcClr = true) : selectCrcu h = .crcClr := if_pos hclr

theorem selectCrcu_of_upd {h : HostPorts} (hclr : h.crcClr = false) (hen : h.crcEn = true) :
    selectCrcu h = .crcUpd h.crcDin := by rw [selectCrcu, hclr, hen]; rfl

theorem selectCrcu_of_hold {h : HostPorts} (hclr : h.crcClr = false) (hen : h.crcEn = false) :
    selectCrcu h = .crcHold := by rw [selectCrcu, hclr, hen]; rfl

/-- The operation of `CRCU` at an edge without a clear that offers a byte, or none. -/
def crcuFeed (o : Option Byte) : Instr :=
  match o with
  | some b => .crcUpd b
  | none => .crcHold

/-- Holds change nothing, so bytes fed with holds between them are folded in one after the other. -/
theorem execAll_map_crcuFeed (l : List (Option Byte)) (s : State) :
    ∃ t, execAll (l.map crcuFeed) s = .next t ∧ t.crcu.crcQ = (l.filterMap id).foldl crc8Update s.crcu.crcQ := by
  induction l generalizing s with
  | nil => exact ⟨s, rfl, rfl⟩
  | cons o l ih =>
    cases o with
    | none => exact ih s
    | some b => exact ih (effCrcUpd b s)

/-- After CRC.CLR or RST the register is the checksum of the bytes fed (40_crc8.md R119). -/
theorem execAll_clear_map_crcuFeed {first : Instr} (hfirst : first = .crcClr ∨ first = .rst) (l : List (Option Byte))
    (s : State) :
    ∃ t, execAll (first :: l.map crcuFeed) s = .next t ∧ t.crcu.crcQ = crc8 (l.filterMap id) := by
  rcases hfirst with rfl | rfl
  · exact execAll_map_crcuFeed l (effCrcClr s)
  · exact execAll_map_crcuFeed l (effRst s)

end Sys2Proof.Machine

namespace Sys2Proof.Proofs

open Machine

/-- Settles O25: CRC.UPD is one step of the fold that `crc8` is, and CRC.HOLD none. -/
theorem crcUpdFoldsAndRefinesCrc8 : Obligations.CrcUpdFoldsAndRefinesCrc8 := by
  refine ⟨fun din s => ⟨effCrcUpd din s, rfl, rfl, rfl, rfl, rfl, rfl⟩, fun _ => selectCrcu_of_upd, fun s t h => ?_,
    by decide, by decide, fun first l s hfirst => ?_⟩
  · rw [eq_effect_of_exec h]
    exact crc8Update_self s.crcu.crcQ
  · exact execAll_clear_map_crcuFeed hfirst l s

/-- Settles O53: only `CRCU` and RST touch the register and the bytes fed, and they keep the two in step. -/
theorem stepKeepsTheChecksumRefinement : Obligations.StepKeepsTheChecksumRefinement := fun _ _ => crcTrace_step

/-- Settles O24: the selection in its priority order, and the two operations' next states. -/
theorem crcClrAndHold : Obligations.CrcClrAndHold :=
  ⟨fun _ => selectCrcu_of_clr, fun _ => selectCrcu_of_upd, fun _ => selectCrcu_of_hold,
    fun s => ⟨effCrcClr s, rfl, rfl, rfl, rfl, rfl, rfl⟩, fun _ => rfl, fun _ => rfl⟩

end Sys2Proof.Proofs
end

section
/-! SUPPORT. The functional level of the encoder (41_encoder.md R130, R131): an encoding decodes to its frame, and a frame
looks at the leading entries of a buffer only. -/

namespace Sys2Proof.Machine

/-- The frame can be read back from its encoding (41_encoder.md R131, E3; 42_decoder.md R162, T1). -/
theorem decode_encode (f : Frame) : decode f.encode = .done (.ok f) (4 + f.data.length) := by
  rw [encode_eq_wireBytes, ← List.append_nil (wireBytes _ _ _), decode_wireBytes, if_pos rfl]

theorem encode_injective : Function.Injective Frame.encode := fun f g h => by
  have hdone := congrArg decode h
  rw [decode_encode, decode_encode] at hdone
  injection hdone with hresult
  injection hresult

/-- The payload stands unchanged after START, ID and LEN (41_encoder.md R131, E5). -/
theorem encode_getElem?_data (f : Frame) {k : Nat} (hk : k < f.data.length) : f.encode[3 + k]? = f.data[k]? := by
  rw [Nat.add_comm]
  show (f.data ++ [f.checksum])[k]? = _
  exact List.getElem?_append_left hk

/-- The leading entries of a buffer are determined by what reads of them give. -/
theorem upTo_congr {d d' : Payload} {n : Nat} (hn : n ≤ 8) (h : ∀ i : Index, i.toNat < n → d.get i = d'.get i) :
    d.upTo n = d'.upTo n := by
  induction n with
  | zero => rfl
  | succ n ih =>
    obtain ⟨i, rfl⟩ : ∃ i : Index, i.toNat = n := ⟨BitVec.ofNat 4 n, by rw [BitVec.toNat_ofNat]; omega⟩
    rw [d.upTo_succ i hn, d'.upTo_succ i hn, h i (Nat.lt_succ_self _),
      ih (Nat.le_of_succ_le hn) fun j hj => h j (Nat.lt_succ_of_lt hj)]

end Sys2Proof.Machine

namespace Sys2Proof.Proofs

open Machine

/-- Settles O54: the encoder's refinement looks at the encoder's part alone, and whatever `ENC` does keeps it. -/
theorem stepKeepsTheEncoderRefinement : Obligations.StepKeepsTheEncoderRefinement :=
  fun _ _ hi hs h => encTrace_step hi hs h

/-- Settles O6: the definition's bytes in order, and the rule's example by computation. -/
theorem encodeEmitsStartIdLenDataChecksum : Obligations.EncodeEmitsStartIdLenDataChecksum := by
  refine ⟨fun f => ⟨f.toNat_len, f.toNat_len_le⟩, fun _ => rfl, ?_⟩
  simp [Frame.encode, Frame.checksum, Frame.body, Frame.len, crc8, crc8Update, crc8Bit]

/-- Settles O7: injective because `decode` gives the frame back, valid because valid frames are the encodings. -/
theorem encodeIsInjectivePositionalAndValid : Obligations.EncodeIsInjectivePositionalAndValid := by
  refine ⟨fun f => ?_, fun _ _ h => encode_injective h, fun f => (validFrame_iff_exists_encode _).mpr ⟨f, rfl⟩,
    fun f => ⟨rfl, rfl, fun _ => encode_getElem?_data f⟩, fun id d d' n hn h => ?_⟩
  · have hlength := length_encode f
    have hshort := f.toNat_len_le
    have hlen := f.toNat_len
    omega
  · exact congrArg Frame.encode (Frame.eq_of_fields rfl (upTo_congr hn h))

end Sys2Proof.Proofs
end

section
/-! SUPPORT. The operations of `ENC` (41_encoder.md R133 to R141): which of them is selected, and the outputs of an idle
encoder. -/

namespace Sys2Proof.Machine

theorem selectEnc_of_legal {p : Ports} (hvalid : p.host.encValid = true) (hlen : p.host.encLen.toNat ≤ 8) :
    selectEnc .encIdle p = .encLoad p.host.encId p.host.encLen p.host.encDataIn :=
  (if_pos hvalid).trans (if_pos hlen)

theorem selectEnc_of_illegal {p : Ports} (hvalid : p.host.encValid = true) (hlen : 8 < p.host.encLen.toNat) :
    selectEnc .encIdle p = .encLoadFault p.host.encLen :=
  (if_pos hvalid).trans (if_neg (Nat.not_le.mpr hlen))

theorem selectEnc_of_idle {p : Ports} (hvalid : p.host.encValid = false) : selectEnc .encIdle p = .encIdle := by
  rw [selectEnc, hvalid]; rfl

theorem selectEnc_of_not_ready {st : EncState} {p : Ports} (hs : st ≠ .encIdle) (hready : p.txReady = false) :
    selectEnc st p = .encWait := by
  cases st
  case encIdle => exact absurd rfl hs
  all_goals
    rw [selectEnc, hready]
    rfl

/-- An idle encoder is ready for a frame and offers nothing (10_state.md R31). -/
theorem outputs_of_encIdle {s : State} (hs : s.enc.encState = .encIdle) :
    (outputs s).encReady = true ∧ (outputs s).encBusy = false ∧ (outputs s).txValid = false := by
  simp [outputs, encReady, encBusy, txValid, hs]

end Sys2Proof.Machine

namespace Sys2Proof.Proofs

open Machine

/-- Settles O26: the selection by the length, and the two operations' next states under their guards. -/
theorem encTakesALegalFrameAndDropsAnIllegalOne : Obligations.EncTakesALegalFrameAndDropsAnIllegalOne := by
  refine ⟨fun _ => selectEnc_of_legal, fun _ => selectEnc_of_illegal, fun id len d s hs hlen => ?_,
    fun len s hs hlen => ?_⟩
  · obtain ⟨hready, hbusy, hvalid⟩ := outputs_of_encIdle hs
    exact ⟨_, congrArg Host.Outcome.next (if_pos ⟨hs, hlen⟩), rfl, rfl, rfl, rfl, rfl, hready, hbusy, hvalid, rfl, rfl,
      rfl, rfl⟩
  · have hfault (t : State) (ht : t.enc.encState = .encIdle) :
        exec (.encLoadFault len) t = .next (raiseEncLengthFault t) :=
      congrArg Host.Outcome.next (if_pos ⟨ht, hlen⟩)
    obtain ⟨hready, -, hvalid⟩ := outputs_of_encIdle (s := raiseEncLengthFault s) hs
    exact ⟨_, hfault s hs, rfl, rfl, hvalid, hready, hfault _ hs⟩

/-- Settles O27: in its state each operation fires the byte on offer, whose value the state decides. -/
theorem encSendsItsFiveFields : Obligations.EncSendsItsFiveFields := by
  refine ⟨fun p hready => ⟨if_pos hready, if_pos hready, if_pos hready, if_pos hready, if_pos hready⟩, ?_, ?_, ?_, ?_,
    ?_⟩
  all_goals
    intro s hs
    refine ⟨by simp only [outputs, txData, hs], congrArg Host.Outcome.next ((if_pos hs).trans ?_)⟩
    simp only [txData, hs]
    rfl

/-- Settles O33: the selection by the one port each unit looks at, and four operations that leave the state alone. -/
theorem waitingOperationsChangeNothing : Obligations.WaitingOperationsChangeNothing := by
  refine ⟨fun _ _ => selectEnc_of_not_ready, fun _ => selectEnc_of_idle, fun st crc p hs hvalid => ?_,
    fun st crc p hs hstart => ?_, fun s hs => ⟨s, rfl, txValid_of_busy hs, rfl⟩, fun _ hs => hs, fun _ hs => hs,
    fun _ => ⟨rfl, rfl, rfl, rfl⟩⟩
  · rw [selectDec_of_reading hs, hvalid]; rfl
  · rw [selectDec_of_not_reading hs, hstart]; rfl

end Sys2Proof.Proofs
end

section
/-! SUPPORT. The decoder's refinements over a step (42_decoder.md R181, R184), each read off the lemma of the invariant,
and its checksum test (R183). -/

namespace Sys2Proof.Machine

theorem crc8Update_eq_zero_iff (c b : Byte) : crc8Update c b = 0x00 ↔ b = c :=
  ⟨fun h => crc8Update_right_injective c (h.trans (crc8Update_self c).symm), fun h => h ▸ crc8Update_self b⟩

end Sys2Proof.Machine

namespace Sys2Proof.Proofs

open Machine

/-- Settles O55: the bytes taken and the registers move together at each byte taken, and nothing else moves either. -/
theorem stepKeepsTheDecoderRefinement : Obligations.StepKeepsTheDecoderRefinement :=
  fun _ _ hi hs h => decTrace_step hi hs h

/-- Settles O56: an attempt that ends adds the result that `decode` gives on its bytes, and no other step adds one. -/
theorem stepKeepsTheResults : Obligations.StepKeepsTheResults :=
  fun _ _ hi ht hs h => resultsTrace_step hi ht hs h

/-- Settles O5: `crc8_update` is injective in the byte, and a register folded with itself gives zero. -/
theorem checksumTestEqualsZeroResidue : Obligations.ChecksumTestEqualsZeroResidue := by
  refine ⟨crc8Update_eq_zero_iff, fun crc b => ?_⟩
  simp only [crc8Update_eq_zero_iff]
  rfl

end Sys2Proof.Proofs
end

section
/-! SUPPORT. `decode` over a stream (42_decoder.md R160, R161): what it accepts is exactly an encoding at the head of
the stream, what one byte more does to an attempt that waits, and what one byte changed does to an encoding (R162). -/

namespace Sys2Proof.Machine

/-- An attempt succeeds exactly on the encoding of its frame, whatever follows, and consumes it (R161, D5). -/
theorem decode_eq_ok_iff {s : List Byte} {f : Frame} {n : Nat} :
    decode s = .done (.ok f) n ↔ n = f.encode.length ∧ ∃ t, s = f.encode ++ t := by
  have hdone (g : Frame) (t : List Byte) : decode (g.encode ++ t) = .done (.ok g) g.encode.length := by
    rw [length_encode, g.toNat_len]
    exact decode_append_of_done (decode_encode g) t
  constructor
  · intro h
    rcases stream_cases s with ⟨-, g, c, t, -, hs, -⟩ | ⟨-, hd⟩ | ⟨-, hd⟩ | ⟨_, _, -, hd⟩
    · by_cases hc : c = g.checksum
      · rw [hc, ← encode_eq_wireBytes] at hs
        rw [hs, hdone] at h
        cases h
        exact ⟨rfl, t, hs⟩
      · rw [hs, decode_wireBytes, if_neg hc] at h
        cases h
    all_goals rw [hd] at h; cases h
  · rintro ⟨rfl, t, rfl⟩
    exact hdone f t

/-- The same, as the bytes consumed. -/
theorem decode_eq_ok_iff_take {s : List Byte} {f : Frame} {n : Nat} :
    decode s = .done (.ok f) n ↔ n ≤ s.length ∧ s.take n = f.encode := by
  rw [decode_eq_ok_iff]
  constructor
  · rintro ⟨rfl, t, rfl⟩
    exact ⟨by simp, List.take_left⟩
  · rintro ⟨hn, ht⟩
    exact ⟨by rw [← ht, List.length_take_of_le hn], s.drop n, by rw [← ht, List.take_append_drop]⟩

/-- A success consumes 4 bytes and those its LEN byte says. -/
theorem decode_ok_consumed {s : List Byte} {f : Frame} {n : Nat} (h : decode s = .done (.ok f) n) :
    ∃ len : Byte, s[2]? = some len ∧ len.toNat ≤ 8 ∧ n = 4 + len.toNat := by
  obtain ⟨rfl, t, rfl⟩ := decode_eq_ok_iff.mp h
  exact ⟨f.len, rfl, f.toNat_len_le, length_encode f⟩

/-- What an ended attempt consumes, by its result (42_decoder.md R161, D2). -/
def Result.consumes (r : Result) (s : List Byte) (n : Nat) : Prop :=
  match r with
  | .err .badStartByte => n = 1
  | .err .lengthOutOfRange => n = 3
  | .err .checksumMismatch => ∃ len : Byte, s[2]? = some len ∧ len.toNat ≤ 8 ∧ n = 4 + len.toNat
  | .ok _ => ∃ len : Byte, s[2]? = some len ∧ len.toNat ≤ 8 ∧ n = 4 + len.toNat

theorem decode_done_consumes {s : List Byte} {r : Result} {n : Nat} (h : decode s = .done r n) : r.consumes s n := by
  cases r with
  | ok f => exact decode_ok_consumed h
  | err e => rcases decode_err_consumed h with ⟨rfl, hn⟩ | ⟨rfl, hn⟩ | ⟨rfl, hn⟩ <;> exact hn

theorem Result.consumes.le {r : Result} {s : List Byte} {n : Nat} (h : r.consumes s n) : n ≤ 12 := by
  have hframe : (∃ len : Byte, s[2]? = some len ∧ len.toNat ≤ 8 ∧ n = 4 + len.toNat) → n ≤ 12 := by
    rintro ⟨len, -, hlen, hn⟩; omega
  match r with
  | .err .badStartByte | .err .lengthOutOfRange =>
    have hn : n = _ := h
    omega
  | .err .checksumMismatch => exact hframe h
  | .ok _ => exact hframe h

/-! #### One byte more -/

theorem decodeTail_of_le {i len : Byte} {legal : len.toNat ≤ Config.maxLen} {d : List Byte} (h : d.length ≤ len.toNat) :
    decodeTail i len legal d = .pending .readData d.length ∨ decodeTail i len legal d = .pending .readChecksum 0 :=
  h.lt_or_eq.imp decodeTail_of_short decodeTail_of_whole

/-- With all payload bytes there, one byte more ends the attempt. -/
theorem decodeTail_snoc_of_whole {i len : Byte} {legal : len.toNat ≤ Config.maxLen} {d : List Byte}
    (h : d.length = len.toNat) (b : Byte) : ∃ r n, decodeTail i len legal (d ++ [b]) = .done r n := by
  rw [decodeTail_of_checksum h]
  split <;> exact ⟨_, _, rfl⟩

/-- What one byte more after the LEN byte does to an attempt that waits in `st`, with the index `k`. -/
theorem decodeTail_snoc {i len : Byte} {legal : len.toNat ≤ Config.maxLen} {d : List Byte} {st : DecState} {k : Nat}
    (h : decodeTail i len legal d = .pending st k) (b : Byte) :
    (∃ r n, decodeTail i len legal (d ++ [b]) = .done r n) ∨
      (st = .readData ∧ (decodeTail i len legal (d ++ [b]) = .pending .readData (k + 1) ∨
        decodeTail i len legal (d ++ [b]) = .pending .readChecksum 0)) := by
  rcases body_cases len.toNat d with hs | hw | ⟨d, c, t, rfl, hd⟩
  · rw [decodeTail_of_short hs] at h
    cases h
    have hlen : (d ++ [b]).length = d.length + 1 := by simp
    exact .inr ⟨rfl, hlen ▸ decodeTail_of_le (by omega)⟩
  · exact .inl (decodeTail_snoc_of_whole hw b)
  · rw [decodeTail_of_checksum hd] at h
    split at h <;> cases h

/-- A byte on which an attempt that waits goes on, or ends (42_decoder.md R161, D6). -/
theorem decode_snoc_of_pending {s : List Byte} {st : DecState} {k : Nat} (h : decode s = .pending st k) (b : Byte) :
    (∃ (r : Result) (n : Nat), decode (s ++ [b]) = .done r n) ∨
      (st = .awaitStart ∧ decode (s ++ [b]) = .pending .readId 0) ∨
      (st = .readId ∧ decode (s ++ [b]) = .pending .readLen 0) ∨
      (st = .readLen ∧ (decode (s ++ [b]) = .pending .readData 0 ∨ decode (s ++ [b]) = .pending .readChecksum 0)) ∨
      (st = .readData ∧
        (decode (s ++ [b]) = .pending .readData (k + 1) ∨ decode (s ++ [b]) = .pending .readChecksum 0)) := by
  match s with
  | [] =>
    cases h
    by_cases hb : b = Config.start
    · subst hb; exact .inr (.inl ⟨rfl, rfl⟩)
    · exact .inl ⟨_, _, decode_of_badStart hb []⟩
  | a :: s1 =>
    by_cases ha : a = Config.start
    · subst ha
      match s1 with
      | [] => cases h; exact .inr (.inr (.inl ⟨rfl, rfl⟩))
      | [i] =>
        cases h
        by_cases legal : b.toNat ≤ Config.maxLen
        · exact .inr (.inr (.inr (.inl ⟨rfl, decode_of_legal (i := i) legal [] ▸ decodeTail_of_le (Nat.zero_le _)⟩)))
        · exact .inl ⟨_, _, decode_of_illegal (Nat.not_le.mp legal) i []⟩
      | i :: len :: body =>
        by_cases legal : len.toNat ≤ Config.maxLen
        · rw [decode_of_legal legal] at h
          have hsnoc := decodeTail_snoc h b
          rw [← decode_of_legal legal] at hsnoc
          exact hsnoc.imp_right fun hgo => .inr (.inr (.inr hgo))
        · rw [decode_of_illegal (Nat.not_le.mp legal)] at h
          cases h
    · rw [decode_of_badStart ha] at h
      cases h

/-! #### One byte changed (42_decoder.md R162) -/

theorem decode_wireBytes_of_ne {f : Frame} {c : Byte} (h : c ≠ f.checksum) :
    decode (wireBytes f.id f.data c) = .done (.err .checksumMismatch) (4 + f.data.length) := by
  rw [← List.append_nil (wireBytes _ _ _), decode_wireBytes, if_neg h]

theorem set_encode_checksum (f : Frame) (c : Byte) :
    f.encode.set (3 + f.data.length) c = wireBytes f.id f.data c := by
  rw [Nat.add_comm]
  show Config.start :: f.id :: f.len :: (f.data ++ [f.checksum]).set f.data.length c = _
  rw [List.set_append_right _ _ (Nat.le_refl _), Nat.sub_self]
  rfl

theorem set_encode_data (f : Frame) {k : Nat} (hk : k < f.data.length) (b : Byte) :
    f.encode.set (3 + k) b = Config.start :: f.id :: f.len :: (f.data.set k b ++ [f.checksum]) := by
  rw [Nat.add_comm]
  show Config.start :: f.id :: f.len :: (f.data ++ [f.checksum]).set k b = _
  rw [List.set_append_left _ _ hk]

/-- The frame with another byte at one place of its payload. -/
def Frame.setData (f : Frame) (k : Nat) (b : Byte) : Frame :=
  { id := f.id, data := f.data.set k b, short := (List.length_set).trans_le f.short }

/-- The frame with another ID. -/
def Frame.setId (f : Frame) (b : Byte) : Frame := { id := b, data := f.data, short := f.short }

theorem checksum_setId_ne {f : Frame} {b : Byte} (h : b ≠ f.id) : f.checksum ≠ (f.setId b).checksum :=
  crc8_ne_of_ne_at h.symm [] (f.len :: f.data)

theorem checksum_setData_ne {f : Frame} {k : Nat} {b : Byte} (hk : k < f.data.length) (h : f.data[k]? ≠ some b) :
    f.checksum ≠ (f.setData k b).checksum := by
  have hne : f.data[k] ≠ b := fun he => h (by rw [List.getElem?_eq_getElem hk, he])
  have hlen : (f.setData k b).len = f.len := by simp [Frame.len, Frame.setData]
  have hbody : f.body = f.id :: f.len :: f.data.take k ++ f.data[k] :: f.data.drop (k + 1) := by simp [Frame.body]
  have hbody' : (f.setData k b).body = f.id :: f.len :: f.data.take k ++ b :: f.data.drop (k + 1) := by
    rw [Frame.body, hlen]
    simp [Frame.setData, List.set_eq_take_append_cons_drop, hk]
  rw [Frame.checksum, Frame.checksum, hbody, hbody']
  exact crc8_ne_of_ne_at hne _ _

end Sys2Proof.Machine

namespace Sys2Proof.Proofs

open Machine

/-- Settles O10: a success is an encoding at the head of the stream, a failure is read off the cases of `decode`. -/
theorem decodeConsumesExactlyItsFrame : Obligations.DecodeConsumesExactlyItsFrame := by
  refine ⟨fun s t r n h => decode_append_of_done h t, fun s r n h => ?_, fun b t hb => decode_of_badStart hb t,
    fun i len t hlen => decode_of_illegal hlen i t, fun s n => ?_,
    fun s n f h => (decode_eq_ok_iff_take.mp h).2, fun s b st k h => decode_snoc_of_pending h b⟩
  · have hconsumes := decode_done_consumes h
    exact ⟨(decode_done_bounds h).2, hconsumes.le, hconsumes⟩
  · simp only [decode_eq_ok_iff_take, exists_and_left, validFrame_iff_exists_encode]

/-- Settles O11: the encoding with one byte changed is the bytes of a frame with another checksum, or is cut short by
its START or LEN byte. -/
theorem roundTripAndSingleByteCorruption : Obligations.RoundTripAndSingleByteCorruption := by
  refine ⟨fun f t => decode_append_of_done (decode_encode f) t, fun f c hc => ?_, fun f k b hk hb => ?_,
    fun f b hb => ?_, fun f b hb => decode_of_badStart hb _, fun f b hb => decode_of_illegal hb _ _⟩
  · rw [set_encode_checksum, decode_wireBytes_of_ne hc]
  · have hdone := decode_wireBytes_of_ne (checksum_setData_ne hk hb)
    rw [set_encode_data f hk]
    simpa [wireBytes, Frame.setData, Frame.len] using hdone
  · exact decode_wireBytes_of_ne (checksum_setId_ne hb)

/-- Settles O9: seven cases by the stream's length, first and third byte, the last two by the checksum byte. -/
theorem decodeHasNineCases : Obligations.DecodeHasNineCases := by
  refine ⟨rfl, fun b t hb => decode_of_badStart hb t, rfl, fun _ => rfl, fun i len t hlen => decode_of_illegal hlen i t,
    fun i len d hlen hd => (decode_of_legal hlen d).trans (decodeTail_of_short hd),
    fun i len d hlen hd => (decode_of_legal hlen d).trans (decodeTail_of_whole hd), fun f c t => ?_⟩
  exact wireBytes_append f c t ▸ decode_wireBytes f c t

end Sys2Proof.Proofs
end

section
/-! SUPPORT. The operations of `DEC` (42_decoder.md R163 to R173): which of them is selected, and the outputs once the
attempt has ended. -/

namespace Sys2Proof.Machine

/-- With a byte offered, a reading state takes it (30_encoding.md R91). -/
theorem selectDec_of_valid {st : DecState} (hr : st.reading = true) (crc : Byte) {p : Ports} (hv : p.rxValid = true) :
    selectDec st crc p = selectDecByte st crc p.rxData := by
  rw [selectDec_of_reading hr, if_pos hv]

/-- The LEN byte's three classes (42_decoder.md R168 to R170). -/
theorem selectDecByte_readLen (crc b : Byte) : selectDecByte .readLen crc b =
    if b.toNat = 0 then .decRdLenZero else if b.toNat ≤ 8 then .decRdLenNz b else .decRdLenBad b := by
  have hzero : b.toNat = 0 ↔ b = 0x00 := BitVec.toNat_inj (y := 0x00)
  simp only [hzero]
  rfl

/-- DEC.START begins an attempt outside the reading states (42_decoder.md R163). -/
theorem effDecStart_of_not_reading {s : State} (h : s.dec.decState.reading = false) : effDecStart s = startAttempt s :=
  if_neg (by rw [h]; decide)

/-- The status outputs of an attempt that failed (60_exceptions.md R204). -/
theorem outputs_of_raise (e : DecodeError) (s : State) :
    (outputs (raiseDecodeError e s)).decDone = true ∧ (outputs (raiseDecodeError e s)).decErr = errorCode e ∧
      (outputs (raiseDecodeError e s)).decOk = false ∧ (outputs (raiseDecodeError e s)).decBusy = false ∧
      (outputs (raiseDecodeError e s)).rxReady = false ∧ (outputs (raiseDecodeError e s)).frame = none ∧
      attemptResult (raiseDecodeError e s).dec = some (.err e) :=
  ⟨rfl, rfl, rfl, rfl, rfl, rfl, rfl⟩

end Sys2Proof.Machine

namespace Sys2Proof.Proofs

open Machine

/-- Settles O28: the selection looks at `dec_start` outside the reading states only, and so does the operation. -/
theorem decStartBeginsAFreshAttempt : Obligations.DecStartBeginsAFreshAttempt := by
  refine ⟨fun st crc p hs hstart => ?_, fun s hs => ?_, fun st crc p v hs => ?_, fun s hs => ?_⟩
  · rw [selectDec_of_not_reading hs, if_pos hstart]
  · exact ⟨_, congrArg Host.Outcome.next (effDecStart_of_not_reading hs), rfl, rfl, rfl, rfl, rfl, rfl, rfl, rfl, rfl,
      rfl⟩
  · rw [selectDec_of_reading hs, selectDec_of_reading hs]
  · exact congrArg Host.Outcome.next (if_pos hs)

/-- Settles O29: START or not decides the operation, and each writes in `AwaitStart` what its rule says. -/
theorem decStartByteDecides : Obligations.DecStartByteDecides := by
  refine ⟨fun crc p hv => selectDec_of_valid rfl crc hv, fun s hs => congrArg Host.Outcome.next (if_pos hs),
    fun b s hs hb => ?_⟩
  obtain ⟨hdone, herr, hok, hbusy, hready, -⟩ := outputs_of_raise .badStartByte (noteTaken b s)
  exact ⟨_, congrArg Host.Outcome.next (if_pos ⟨hs, hb⟩), rfl, hdone, herr, hok, hbusy, hready⟩

/-- Settles O30: the class of the LEN byte decides the operation, and each writes in `ReadLen` what its rule says. -/
theorem decRdLenByClass : Obligations.DecRdLenByClass := by
  refine ⟨fun crc p hv => (selectDec_of_valid rfl crc hv).trans (selectDecByte_readLen crc _),
    fun s hs => congrArg Host.Outcome.next (if_pos hs),
    fun b s hs h1 h8 => congrArg Host.Outcome.next (if_pos ⟨hs, h1, h8⟩), fun b s hs hb => ?_⟩
  exact ⟨_, congrArg Host.Outcome.next (if_pos ⟨hs, hb⟩), rfl, rfl, rfl⟩

/-- Settles O31: the buffer after the write is read entry by entry, the other registers are the rule's writes. -/
theorem decIdAndDataBytesAreStored : Obligations.DecIdAndDataBytesAreStored := by
  refine ⟨fun crc p hv => ⟨selectDec_of_valid rfl crc hv, selectDec_of_valid rfl crc hv⟩,
    fun b s hs => congrArg Host.Outcome.next (if_pos hs), fun b s hs => ?_⟩
  exact ⟨_, congrArg Host.Outcome.next (if_pos hs), rfl, fun hidx => s.dec.decDataR.get_set_self b _ hidx,
    fun j hj => s.dec.decDataR.get_set_of_ne b _ j hj⟩

/-- Settles O32: the checksum register decides the operation, and the two ends of an attempt have these outputs. -/
theorem decCrcByteDecides : Obligations.DecCrcByteDecides := by
  refine ⟨fun crc p hv => selectDec_of_valid rfl crc hv, fun b s hs hb => ?_, fun b s hs hb => ?_⟩
  · exact ⟨_, congrArg Host.Outcome.next (if_pos ⟨hs, hb⟩), rfl, rfl, rfl, rfl, rfl, rfl, rfl, rfl⟩
  · obtain ⟨hdone, herr, hok, -, -, hframe, hresult⟩ := outputs_of_raise .checksumMismatch
      (noteTaken b { s with dec := { s.dec with decCrcRx := b } })
    exact ⟨_, congrArg Host.Outcome.next (if_pos ⟨hs, hb⟩), rfl, hdone, hok, herr, hframe, hresult⟩

end Sys2Proof.Proofs
end

section
/-! SUPPORT. A frame delivered to a fresh attempt (42_decoder.md R160, R181): its body is taken whole and stands in the
registers, and the byte at the checksum's place decides. -/

namespace Sys2Proof.Machine

/-- Bytes delivered in two parts, the first of which is taken whole. -/
theorem deliver_append {v : List Byte} {s u : State} (h : deliver v s = (u, [])) (w : List Byte) :
    deliver (v ++ w) s = deliver w u := by
  induction v generalizing s with
  | nil => cases h; rfl
  | cons b v ih =>
    cases hr : s.dec.decState.reading
    · rw [deliver_cons_not_reading hr] at h; cases h
    · rw [deliver_cons_reading hr] at h
      rw [List.cons_append, deliver_cons_reading hr, ih h]

/-- Bytes with which `decode` still waits are taken whole, and the attempt is in the state in which `decode` waits. -/
theorem deliver_of_pending (w : List Byte) {s : State} (hr : s.dec.decState.reading = true) (hi : DecInv s.dec)
    (ht : DecTrace s) {st : DecState} {k : Nat} (h : decode (s.hist.rxTaken ++ w) = .pending st k) :
    ∃ u, deliver w s = (u, []) ∧ u.dec.decState = st ∧ DecInv u.dec ∧ DecTrace u ∧
      u.hist.rxTaken = s.hist.rxTaken ++ w := by
  induction w generalizing s with
  | nil =>
    rw [List.append_nil] at h
    exact ⟨s, rfl, (decRefines_of_decTrace hi ht).decState_eq hr h, hi, ht, (List.append_nil _).symm⟩
  | cons b w ih =>
    have hi' := decInv_takeByte b hi
    have ht' := decTrace_takeByte b hi ht
    obtain ⟨htaken, -, ⟨hgo, -⟩ | ⟨-, r, hresult, -⟩⟩ := takeByte_attempt hr b
    · rw [List.append_cons, ← htaken] at h ⊢
      rw [deliver_cons_reading hr]
      exact ih hgo hi' ht' h
    · have hdone := (decRefines_of_decTrace hi' ht').done hresult
      rw [htaken] at hdone
      rw [List.append_cons, decode_append_of_done hdone] at h
      cases h

/-- What an attempt's registers hold when ID, LEN and DATA of the frame `f` have been taken. -/
structure HoldsBody (f : Frame) (d : Dec) : Prop where
  state    : d.decState = .readChecksum
  id       : d.decIdR = f.id
  len      : d.decLenR = f.len
  data     : d.decDataR.upTo f.data.length = f.data
  checksum : d.decCrc = f.checksum

/-- The bytes of a frame, delivered to a fresh attempt, are taken up to the last, and then the last. -/
theorem deliver_wireBytes (f : Frame) (c : Byte) (s : State) :
    ∃ u, deliver (wireBytes f.id f.data c) (startAttempt s) = (takeByte c u, []) ∧ HoldsBody f u.dec := by
  have hpending : decode (Config.start :: f.body) = .pending .readChecksum 0 :=
    (decode_of_legal f.toNat_len_le f.data).trans (decodeTail_of_whole f.toNat_len.symm)
  obtain ⟨u, hu, hstate, hi, ht, htaken⟩ := deliver_of_pending (s := startAttempt s) (Config.start :: f.body) rfl
    (decInv_startAttempt s) rfl hpending
  have hidx := hi.idx_eq_len (.inl hstate)
  obtain ⟨-, hcrc, -⟩ := hi.body (.inr (.inl hstate))
  simp only [DecTrace, hstate, htaken] at ht
  injection ht with _ hbody
  injection hbody with hid htail
  injection htail with hlen hdata
  rw [← hlen, f.toNat_len] at hidx
  rw [hidx] at hdata hcrc
  refine ⟨u, ?_, hstate, hid.symm, hlen.symm, hdata.symm, ?_⟩
  · have hread : u.dec.decState.reading = true := by rw [hstate]; rfl
    show deliver (Config.start :: f.body ++ [c]) _ = _
    rw [deliver_append hu, deliver_cons_reading hread, deliver_nil]
  · rw [hcrc, ← hid, ← hlen, ← hdata]
    rfl

/-- The byte at the checksum's place is stored and decides (42_decoder.md R172, R173). -/
theorem dec_takeByte_of_readChecksum {s : State} (hs : s.dec.decState = .readChecksum) (b : Byte) :
    (takeByte b s).dec =
      if b = s.dec.decCrc then { s.dec with decCrcRx := b, decState := .accepted }
      else { s.dec with decCrcRx := b, decErrR := some .checksumMismatch, decState := .rejected } := by
  simp only [takeByte, hs, effDecCrcOk, effDecCrcBad]
  by_cases hb : b = s.dec.decCrc <;> simp [hb]

/-- The frame in the registers of an attempt that has taken the body of `f`. -/
theorem HoldsBody.decFrame_eq {f : Frame} {d : Dec} (h : HoldsBody f d) : decFrame d = f :=
  Frame.eq_of_fields h.id (by rw [decFrame, Frame.ofPayload_data, h.len, f.toNat_len, h.data])

/-- A frame received in a fresh attempt, whatever the record: all its bytes are taken, `DEC` is where the delivery to a
fresh attempt leaves it, and nothing else moves. -/
theorem receive_wireBytes (f : Frame) (c : Byte) {s : State} (hs : s.dec = (startAttempt s).dec) :
    ∃ u, HoldsBody f u.dec ∧ (receive (wireBytes f.id f.data c) s).dec = (takeByte c u).dec ∧
      (receive (wireBytes f.id f.data c) s).crcu = s.crcu ∧ (receive (wireBytes f.id f.data c) s).enc = s.enc ∧
      (receive (wireBytes f.id f.data c) s).env = s.env ∧
      (receive (wireBytes f.id f.data c) s).hist.rxTaken = s.hist.rxTaken ++ wireBytes f.id f.data c := by
  obtain ⟨u, hu, hbody⟩ := deliver_wireBytes f c s
  have hfresh : s = { startAttempt s with hist := s.hist } := by
    show s = { s with dec := (startAttempt s).dec }
    rw [← hs]
  obtain ⟨h', hdeliver⟩ := deliver_withHist (wireBytes f.id f.data c) (startAttempt s) s.hist
  rw [← hfresh, hu] at hdeliver
  obtain ⟨hcrcu, henc, henv⟩ := deliver_frame (wireBytes f.id f.data c) s
  obtain ⟨v, hv, htaken, -⟩ := deliver_taken (wireBytes f.id f.data c) s
  have hrest : (deliver (wireBytes f.id f.data c) s).2 = [] := by rw [hdeliver]
  rw [hrest, List.append_nil] at hv
  refine ⟨u, hbody, ?_, hcrcu, henc, ?_, hv ▸ htaken⟩
  · rw [receive, hdeliver]
  · rw [receive, hrest, List.nil_append]
    exact henv

end Sys2Proof.Machine

namespace Sys2Proof.Proofs

open Machine

/-- Settles O34: a fresh attempt takes the body whole, then the checksum letter decides; outside an attempt nothing is
taken. -/
theorem frameIsDecodedInAnAttemptAndStaysOutsideOne : Obligations.FrameIsDecodedInAnAttemptAndStaysOutsideOne := by
  refine ⟨fun i f c s hp hs => ?_, fun i s hf hs => ?_⟩
  · obtain ⟨hbytes, hwf, -⟩ := frameParts_spec hp
    have hiff : i.wf = true ↔ c = f.checksum := by rw [hwf]; exact beq_iff_eq
    obtain ⟨u, hbody, hdec, hcrcu, henc, henv, htaken⟩ := receive_wireBytes f c hs
    have hexec : exec i s = .next (receive (wireBytes f.id f.data c) s) := by
      rw [exec_eq_next, effect_of_isFrame (isFrame_of_frameParts hp), hbytes]
    rw [dec_takeByte_of_readChecksum hbody.state, hbody.checksum] at hdec
    refine ⟨_, hexec, hcrcu, henc, henv, by rw [hbytes]; exact htaken, ?_⟩
    by_cases hc : c = f.checksum
    · rw [hdec, if_pos hc]
      refine ⟨hbody.id, hbody.len, hbody.data, hbody.checksum, rfl, fun _ => ⟨rfl, ?_⟩, fun hw => ?_⟩
      · exact congrArg (fun g => some (Result.ok g)) hbody.decFrame_eq
      · exact absurd ((hiff.mpr hc).symm.trans hw) (by decide)
    · rw [hdec, if_neg hc]
      exact ⟨hbody.id, hbody.len, hbody.data, hbody.checksum, rfl, fun hw => absurd (hiff.mp hw) hc,
        fun _ => ⟨rfl, rfl⟩⟩
  · rw [exec_eq_next, effect_of_isFrame hf, receive_not_reading hs]
    rfl

end Sys2Proof.Proofs
end

section
/-! SUPPORT. Both units move forward one byte at a time (42_decoder.md R176; 41_encoder.md R142). -/

namespace Sys2Proof.Machine

/-! #### The decoder -/

/-- The edges of R176's graph, with what the registers say along them. -/
def MovesForward (d d' : Dec) : Prop :=
  match d.decState, d'.decState with
  | .awaitStart, .readId => True
  | .awaitStart, .rejected => True
  | .readId, .readLen => True
  | .readLen, .readChecksum => d'.decLenR = 0x00
  | .readLen, .readData => d'.decIdx = 0
  | .readLen, .rejected => True
  | .readData, .readData => d'.decIdx.toNat = d.decIdx.toNat + 1
  | .readData, .readChecksum => d'.decIdx.toNat = d.decIdx.toNat + 1
  | .readChecksum, .accepted => True
  | .readChecksum, .rejected => True
  | _, _ => False

/-- A byte taken in an attempt moves the decoder along an edge of the graph. -/
theorem movesForward_takeByte {s : State} (hi : DecInv s.dec) (hr : s.dec.decState.reading = true) (b : Byte) :
    MovesForward s.dec (takeByte b s).dec := by
  obtain ⟨-, hst⟩ := hi
  rcases takeByte_cases b s with ⟨hs, -, ht⟩ | ⟨hs, -, ht⟩ | ⟨hs, ht⟩ | ⟨hs, -, ht⟩ | ⟨hs, -, ht⟩ | ⟨hs, ht⟩ |
    ⟨hs, -, ht⟩ | ⟨hs, -, ht⟩ | ⟨hs, -⟩
  on_goal 9 => exact absurd (hr.symm.trans hs) (by decide)
  all_goals
    simp only [hs] at hst
    rw [ht, MovesForward, hs]
  on_goal 4 => -- a legal LEN byte
    obtain ⟨-, h0, -⟩ := hst
    by_cases hb0 : b = 0x00
    · simp only [noteTaken_dec, if_pos hb0]; exact hb0
    · simp only [noteTaken_dec, if_neg hb0]; exact h0
  on_goal 5 => -- a payload byte
    obtain ⟨-, hlt, hl, -⟩ := hst
    have hidx := toNat_add_one (i := s.dec.decIdx) (by omega)
    by_cases hlast : s.dec.decIdx.toNat + 1 = s.dec.decLenR.toNat
    · simp only [noteTaken_dec, if_pos hlast]; exact hidx
    · simp only [noteTaken_dec, if_neg hlast]; exact hidx
  all_goals trivial

/-! #### The encoder -/

/-- A byte accepted from a busy encoder is the one on offer, and firing it is all that `ENC` does. -/
theorem effect_selectEnc_of_ready {s : State} {p : Ports} (hs : s.enc.encState ≠ .encIdle) (hready : p.txReady = true) :
    effect (selectEnc s.enc.encState p) s = noteFired (txData s.enc) { s with enc := s.enc.fired } := by
  cases he : s.enc.encState
  case encIdle => exact absurd he hs
  all_goals
    rw [selectEnc, hready, Enc.fired, he]
    exact if_pos he

/-- The wire position after the payload is that of the checksum byte alone (10_state.md R29). -/
theorem encPosition_eq_end_iff {e : Enc} (h : EncInv e) (hs : e.encState ≠ .encIdle) :
    encPosition e = 3 + e.encLenR.toNat ↔ e.encState = .encCrc := by
  obtain ⟨-, -, hst⟩ := h
  cases he : e.encState <;> simp only [he] at hst <;> simp only [encPosition, he, reduceCtorEq, iff_false]
  case encIdle => exact absurd he hs
  case encStart | encId | encLen => omega
  case encData =>
    obtain ⟨hlt, -⟩ := hst
    omega

/-- The frame ends with its checksum byte and not before. -/
theorem fired_encIdle_iff {e : Enc} (h : EncInv e) (hs : e.encState ≠ .encIdle) :
    e.fired.encState = .encIdle ↔ e.encState = .encCrc := by
  refine ⟨fun hidle => ?_, fun hcrc => by rw [Enc.fired, hcrc]⟩
  rcases encPosition_fired h hs with ⟨hcrc, -⟩ | ⟨hbusy, -⟩
  · exact hcrc
  · exact absurd hidle hbusy

end Sys2Proof.Machine

namespace Sys2Proof.Proofs

open Machine

/-- Settles O41: the decoder along R176's graph, the encoder by its wire position, which firing moves on or ends. -/
theorem unitsMoveForward : Obligations.UnitsMoveForward := by
  refine ⟨fun b s t hi hr h => ?_, fun p s t hi hs hready h => ?_⟩
  · rw [exec_selectDecByte] at h
    cases h
    obtain ⟨htaken, -⟩ := takeByte_attempt hr b
    exact ⟨htaken, movesForward_takeByte hi hr b⟩
  · rw [exec_eq_next, effect_selectEnc_of_ready hs hready] at h
    cases h
    exact ⟨rfl, (encPosition_fired hi hs).imp (·.2) (·.2),
      (fired_encIdle_iff hi hs).trans (encPosition_eq_end_iff hi hs).symm⟩

end Sys2Proof.Proofs
end

section
/-! SUPPORT. `tx` wired to `rx` (30_encoding.md R93, `loopback`): at each edge the byte that fires is the byte taken, so
what has been taken and what has still to fire are together the frame's encoding. -/

namespace Sys2Proof.Machine

/-! #### A looped-back edge -/

/-- The ports of a looped-back edge are the block's own outputs (30_encoding.md R93). -/
theorem edgePorts_of_loopback {e : Edge} (hl : e.loopback = true) (s : State) : edgePorts e s =
    { host := e.host, txReady := rxReady s.dec.decState, rxValid := txValid s.enc.encState, rxData := txData s.enc } :=
  if_pos hl

/-- At a looped-back edge without reset the transport's `rx` stream stands still, and a byte passes on `tx` exactly when
the encoder offers one and the decoder takes it. -/
theorem transport_of_loopback {e : Edge} (hl : e.loopback = true) (hr : e.host.rst = false) (s : State) :
    (transport e s).env.rxQueue = s.env.rxQueue ∧ (transport e s).env.txLine =
      if txValid s.enc.encState && s.dec.decState.reading then s.env.txLine ++ [txData s.enc] else s.env.txLine := by
  simp [transportGives, transportTakes, edgePorts_of_loopback hl, hl, hr, rxReady]

/-- From `s` to `t` the bytes `w` have passed on `tx`; `CRCU`, `enc_fault` and the transport's `rx` stream stand
still. -/
structure LoopPassed (w : List Byte) (s t : State) : Prop where
  txLine  : t.env.txLine = s.env.txLine ++ w
  crcu    : t.crcu = s.crcu
  fault   : t.enc.encFault = s.enc.encFault
  rxQueue : t.env.rxQueue = s.env.rxQueue

theorem LoopPassed.trans {v w : List Byte} {s u t : State} (h : LoopPassed v s u) (h' : LoopPassed w u t) :
    LoopPassed (v ++ w) s t where
  txLine := by rw [h'.txLine, h.txLine, List.append_assoc]
  crcu := h'.crcu.trans h.crcu
  fault := h'.fault.trans h.fault
  rxQueue := h'.rxQueue.trans h.rxQueue

/-- An edge without a command, `tx` wired to `rx`. -/
def Edge.loop : Edge := { Edge.quiet with loopback := true }

/-- The edge of 95_test_vectors.md P1 at which a frame is offered and an attempt begun, `tx` wired to `rx`. -/
def Edge.loopStart (id len : Byte) (d : Payload) : Edge :=
  { Edge.load id len d with loopback := true, host := { (Edge.load id len d).host with decStart := true } }

theorem loopbackStims_eq (id len : Byte) (d : Payload) :
    loopbackStims id len d = .edge (Edge.loopStart id len d) :: List.replicate (4 + len.toNat) (.edge Edge.loop) := rfl

/-! #### A frame in flight -/

/-- A frame in flight from the encoder to the decoder: what has been taken and what has still to fire are together the
encoding of `f`. -/
structure Looping (f : Frame) (s : State) : Prop where
  busy    : s.enc.encState ≠ .encIdle
  reading : s.dec.decState.reading = true
  encInv  : EncInv s.enc
  decInv  : DecInv s.dec
  trace   : DecTrace s
  bytes   : s.hist.rxTaken ++ encRest s.enc = f.encode

/-- The first edge loads the frame and begins the attempt; no byte passes. -/
theorem step_loopStart {s : State} {id len : Byte} {d : Payload} {rest : List Stim}
    (hstims : s.env.stims = .edge (Edge.loopStart id len d) :: rest) (he : s.enc.encState = .encIdle)
    (hd : s.dec.decState.reading = false) (hlen : len.toNat ≤ 8) : ∃ t, step s = .next t ∧ t.env.stims = rest ∧
      LoopPassed [] s t ∧ Looping (Frame.ofPayload id d len.toNat) t ∧
      encRest t.enc = (Frame.ofPayload id d len.toNat).encode := by
  obtain ⟨t, ht⟩ := exists_step_eq_next s
  obtain ⟨henv, hcrcu, henc, hdec⟩ :=
    edgeStep_views (e := Edge.loopStart id len d) rfl ((step_edge hstims).symm.trans ht)
  obtain ⟨hqueue, hline⟩ := transport_of_loopback (e := Edge.loopStart id len d) rfl rfl (withStims rest s)
  have hports := edgePorts_of_loopback (e := Edge.loopStart id len d) rfl (withStims rest s)
  have hload : t.enc =
      { encState := .encStart, encIdR := id, encLenR := len, encDataR := d, encIdx := 0, encCrc := 0x00,
        encFault := s.enc.encFault } := by
    rw [enc_eq_of_encView henc, hports, withStims_enc, he, selectEnc_of_legal rfl hlen, effect, effEncLoad]
    exact congrArg State.enc (if_pos ⟨he, hlen⟩)
  have hview : decView t = decView (startAttempt s) := by
    rw [hdec, effect_selectDec rfl, withStims_dec, hd, hports]
    rfl
  have hstart := dec_eq_of_decView hview
  have htaken : t.hist.rxTaken = [] := congrArg (fun v => v.2.1) hview
  have hrest : encRest t.enc = (Frame.ofPayload id d len.toNat).encode := by rw [hload]; rfl
  refine ⟨t, ht, by rw [henv]; rfl, ⟨?_, hcrcu, by rw [hload], by rw [henv, hqueue]; rfl⟩,
    ⟨by rw [hload]; nofun, by rw [hstart]; rfl, ?_, hstart ▸ decInv_startAttempt s, DecTrace.of_decView hview rfl,
      by rw [htaken, hrest]; rfl⟩, hrest⟩
  · rw [henv, hline, withStims_enc, he, List.append_nil]
    rfl
  · rw [hload]
    exact ⟨hlen, Nat.zero_le _, rfl, rfl⟩

/-- Each further edge fires the byte on offer, and the decoder takes it. -/
theorem Looping.exists_step {f : Frame} {s : State} (h : Looping f s) {rest : List Stim}
    (hstims : s.env.stims = .edge Edge.loop :: rest) : ∃ t, step s = .next t ∧ t.env.stims = rest ∧
      LoopPassed [txData s.enc] s t ∧ t.enc = s.enc.fired ∧ decView t = decView (takeByte (txData s.enc) s) := by
  obtain ⟨t, ht⟩ := exists_step_eq_next s
  obtain ⟨henv, hcrcu, henc, hdec⟩ := edgeStep_views (e := Edge.loop) rfl ((step_edge hstims).symm.trans ht)
  obtain ⟨hqueue, hline⟩ := transport_of_loopback (e := Edge.loop) rfl rfl (withStims rest s)
  have hports := edgePorts_of_loopback (e := Edge.loop) rfl (withStims rest s)
  have hvalid : txValid s.enc.encState = true := txValid_of_busy h.busy
  have hready : (edgePorts Edge.loop (withStims rest s)).txReady = true := by rw [hports]; exact h.reading
  have hfired : t.enc = s.enc.fired := by
    rw [enc_eq_of_encView henc, effect_selectEnc_of_ready (s := withStims rest s) h.busy hready]
    rfl
  refine ⟨t, ht, by rw [henv]; rfl, ⟨?_, hcrcu, by rw [hfired, encFault_fired], by rw [henv, hqueue]; rfl⟩, hfired, ?_⟩
  · rw [henv, hline, withStims_enc, withStims_dec, hvalid, h.reading]
    rfl
  · rw [hdec, effect_selectDec rfl, withStims_dec, h.reading, hports]
    simp only [withStims_enc, hvalid, if_true]
    exact (local_takeByte _).get_congr rfl

/-- Then the frame is still in flight, or both units have done with it at once: `decode` waits on every proper beginning
of an encoding, and ends on all of it. -/
theorem Looping.goes_on_or_ends {f : Frame} {s t : State} (h : Looping f s) (henc : t.enc = s.enc.fired)
    (hview : decView t = decView (takeByte (txData s.enc) s)) :
    Looping f t ∨ t.enc.encState = .encIdle ∧ attemptResult t.dec = some (.ok f) := by
  have hei : EncInv t.enc := henc ▸ encInv_fired h.encInv
  have hdi : DecInv t.dec := dec_eq_of_decView hview ▸ decInv_takeByte _ h.decInv
  have htr : DecTrace t := (decTrace_takeByte _ h.decInv h.trace).of_decView hview
  have hrefines := decRefines_of_decTrace hdi htr
  obtain ⟨htaken, -, hnext⟩ := takeByte_attempt h.reading (txData s.enc)
  have hbytes : t.hist.rxTaken ++ encRest t.enc = f.encode := by
    have htaken' : t.hist.rxTaken = s.hist.rxTaken ++ [txData s.enc] :=
      (congrArg (fun v => v.2.1) hview).trans htaken
    rw [htaken', henc, List.append_assoc, ← h.bytes, encRest_of_busy h.encInv h.busy]
    rfl
  rw [← dec_eq_of_decView hview] at hnext
  rcases hnext with ⟨hgo, -⟩ | ⟨-, r, hr, -⟩
  · refine .inl ⟨fun hidle => ?_, hgo, hei, hdi, htr, hbytes⟩
    obtain ⟨st, k, hpending⟩ := hrefines.pending hgo
    rw [encRest_of_idle hidle, List.append_nil] at hbytes
    rw [hbytes, decode_encode] at hpending
    cases hpending
  · have hdone := decode_append_of_done (hrefines.done hr) (encRest t.enc)
    rw [hbytes, decode_encode] at hdone
    injection hdone with hresult hcount
    refine .inr ⟨?_, hresult ▸ hr⟩
    by_contra hbusy
    have hlength := congrArg List.length hbytes
    rw [length_encode, f.toNat_len, List.length_append, encRest_of_busy hei hbusy, List.length_cons] at hlength
    omega

/-- As many edges as there are bytes left to fire, and the frame is accepted. -/
theorem Looping.exists_run {f : Frame} {rest : List Stim} (w : List Byte) {s : State} (h : Looping f s)
    (hw : encRest s.enc = w) (hstims : s.env.stims = List.replicate w.length (.edge Edge.loop) ++ rest) :
    ∃ t, Host.Core.run Sys2Proof.core w.length s = .next t ∧ t.env.stims = rest ∧ LoopPassed w s t ∧
      t.enc.encState = .encIdle ∧ attemptResult t.dec = some (.ok f) := by
  induction w generalizing s with
  | nil =>
    rw [encRest_of_busy h.encInv h.busy] at hw
    cases hw
  | cons b w ih =>
    obtain ⟨u, hu, hplan, hpass, henc, hview⟩ := h.exists_step hstims
    rw [encRest_of_busy h.encInv h.busy, ← henc] at hw
    injection hw with hb hw
    rw [hb] at hpass
    rcases h.goes_on_or_ends henc hview with hgo | ⟨hidle, hresult⟩
    · obtain ⟨t, ht, hrest, hpass', hend⟩ := ih hgo hw hplan
      exact ⟨t, (run_succ hu _).trans ht, hrest, hpass.trans hpass', hend⟩
    · rw [encRest_of_idle hidle] at hw
      subst hw
      exact ⟨u, run_succ hu 0, hplan, hpass, hidle, hresult⟩

theorem decState_of_attemptResult_ok {d : Dec} {f : Frame} (h : attemptResult d = some (.ok f)) :
    d.decState = .accepted := by
  unfold attemptResult at h
  cases hs : d.decState <;> simp only [hs] at h
  case accepted => rfl
  case rejected =>
    obtain ⟨e, -, he⟩ := Option.map_eq_some_iff.mp h
    cases he
  all_goals cases h

end Sys2Proof.Machine

namespace Sys2Proof.Proofs

open Machine

/-- Settles O60: the first edge loads the frame and begins the attempt, each further one passes a byte from `ENC` to
`DEC`. -/
theorem loopbackDeliversTheFrame : Obligations.LoopbackDeliversTheFrame := by
  intro s id len d rest he hd hlen hstims
  rw [loopbackStims_eq] at hstims
  obtain ⟨u, hu, hplan, hpass, hloop, hbytes⟩ := step_loopStart hstims he hd hlen
  have hlength := length_encode_ofPayload id d hlen
  obtain ⟨t, ht, hrest, hpass', hidle, hresult⟩ := hloop.exists_run _ hbytes (by rw [hlength]; exact hplan)
  have hcount : 5 + len.toNat = (Frame.ofPayload id d len.toNat).encode.length + 1 := by rw [hlength]; omega
  have hall := hpass.trans hpass'
  refine ⟨t, ?_, hrest, hidle, decState_of_attemptResult_ok hresult, hresult, hall.crcu, hall.rxQueue, hall.txLine,
    hall.fault⟩
  rw [hcount, run_succ hu]
  exact ht

end Sys2Proof.Proofs
end

section
/-! SUPPORT. What can happen to the registers of `DEC` (60_exceptions.md R200 to R204, R210): RST, a start outside an
attempt, or a byte taken in one, and which byte taken is a failure. -/

namespace Sys2Proof.Machine

/-- An operation of `DEC` does nothing, starts an attempt, or takes a byte by the operation that the byte selects. -/
theorem effect_of_unit_dec_cases {i : Instr} (hu : i.unit = .dec) (hf : i.isFrame = false) (s : State) :
    effect i s = s ∨
    (i = .decStart ∧ effect i s = startAttempt s) ∨
    (s.dec.decState.reading = true ∧
      ∃ b, i = selectDecByte s.dec.decState s.dec.decCrc b ∧ effect i s = takeByte b s) := by
  cases ha : i.applies s.enc.encState s.dec.decState s.dec.decCrc i.drive with
  | false => exact .inl (effect_eq_self_of_not_applies_drive hf ha)
  | true =>
    obtain ⟨-, hi⟩ := eq_selectDec_of_applies hu ha
    cases hr : s.dec.decState.reading with
    | false =>
      rw [selectDec_of_not_reading hr] at hi
      split at hi
      · exact .inr (.inl ⟨hi, by rw [hi]; exact effDecStart_of_not_reading hr⟩)
      · exact .inl (by rw [hi]; rfl)
    | true =>
      rw [selectDec_of_reading hr] at hi
      split at hi
      · exact .inr (.inr ⟨rfl, _, hi, by rw [takeByte_eq_effect, ← hi]⟩)
      · exact .inl (by rw [hi]; rfl)

/-- What an instruction that is no frame can do to the registers of `DEC`. -/
theorem dec_effect_cases {i : Instr} (hf : i.isFrame = false) (s : State) :
    (effect i s).dec = s.dec ∨
    (i = .rst ∧ (effect i s).dec = Dec.reset) ∨
    (i = .decStart ∧ (effect i s).dec = (startAttempt s).dec) ∨
    (s.dec.decState.reading = true ∧
      ∃ b, i = selectDecByte s.dec.decState s.dec.decCrc b ∧ effect i s = takeByte b s) := by
  cases hu : i.unit with
  | all =>
    obtain rfl := eq_rst_of_unit_all hu
    exact .inr (.inl ⟨rfl, rfl⟩)
  | crcu =>
    obtain ⟨-, hd, -⟩ := effect_of_unit_crcu hu s
    exact .inl hd
  | enc =>
    obtain ⟨-, hd, -⟩ := effect_of_unit_enc hu s
    exact .inl hd
  | dec =>
    rcases effect_of_unit_dec_cases hu hf s with h | ⟨hi, h⟩ | h
    · exact .inl (congrArg State.dec h)
    · exact .inr (.inr (.inl ⟨hi, congrArg State.dec h⟩))
    · exact .inr (.inr (.inr h))

/-- `i` is a failing operation of `DEC`, and `dec_err_r` holds its code (60_exceptions.md R200 to R203). -/
def RaisedBy (i : Instr) (t : State) : Prop :=
  (∃ b : Byte, i = .decSofBad b ∧ t.dec.decErrR = some .badStartByte) ∨
    (∃ b : Byte, i = .decRdLenBad b ∧ t.dec.decErrR = some .lengthOutOfRange) ∨
    ∃ b : Byte, i = .decCrcBad b ∧ t.dec.decErrR = some .checksumMismatch

/-- A byte taken in an attempt fails it by one of the three failing operations, or leaves `dec_err_r` alone and does not
bring `Rejected`. -/
theorem takeByte_raises_or_not {s : State} (hr : s.dec.decState.reading = true) (b : Byte) :
    ((takeByte b s).dec.decState = .rejected ∧
      RaisedBy (selectDecByte s.dec.decState s.dec.decCrc b) (takeByte b s)) ∨
    ((takeByte b s).dec.decState ≠ .rejected ∧ (takeByte b s).dec.decErrR = s.dec.decErrR) := by
  rcases takeByte_cases b s with ⟨-, -, h⟩ | ⟨hs, hb, h⟩ | ⟨-, h⟩ | ⟨-, -, h⟩ | ⟨hs, hb, h⟩ | ⟨-, h⟩ | ⟨-, -, h⟩ |
    ⟨hs, hb, h⟩ | ⟨hn, -⟩
  · rw [h]; exact .inr ⟨nofun, rfl⟩
  · rw [h, hs]; exact .inl ⟨rfl, .inl ⟨b, selectDecByte_badStart hb _, rfl⟩⟩
  · rw [h]; exact .inr ⟨nofun, rfl⟩
  · rw [h]; exact .inr ⟨by rw [noteTaken_dec]; split <;> nofun, rfl⟩
  · rw [h, hs]; exact .inl ⟨rfl, .inr (.inl ⟨b, selectDecByte_illegalLen hb _, rfl⟩)⟩
  · rw [h]; exact .inr ⟨by rw [noteTaken_dec]; split <;> nofun, rfl⟩
  · rw [h]; exact .inr ⟨nofun, rfl⟩
  · rw [h, hs]; exact .inl ⟨rfl, .inr (.inr ⟨b, selectDecByte_badChecksum hb, rfl⟩)⟩
  · exact absurd (hr.symm.trans hn) (by decide)

theorem reading_eq_false_of_decDone {st : DecState} (h : decDone st = true) : st.reading = false := by
  cases st <;> first | rfl | cases h

end Sys2Proof.Machine

namespace Sys2Proof.Proofs

open Machine

/-- Settles O39: of what can happen to `DEC`, only a byte taken brings `Rejected`, and then its operation has raised. -/
theorem onlyThreeOperationsRaise : Obligations.OnlyThreeOperationsRaise := by
  intro i s t hf h
  obtain rfl := eq_effect_of_exec h
  rcases dec_effect_cases hf s with hd | ⟨hi, hd⟩ | ⟨hi, hd⟩ | ⟨hr, b, hi, ht⟩
  · rw [hd]
    exact ⟨fun hrej hn => absurd hrej hn, fun hne => absurd rfl hne⟩
  · rw [hd]
    exact ⟨nofun, fun _ => .inr (.inr hi)⟩
  · rw [hd]
    exact ⟨nofun, fun _ => .inr (.inl hi)⟩
  · rw [ht]
    rcases takeByte_raises_or_not hr b with ⟨hrej, hraise⟩ | ⟨hn, herr⟩
    · rw [← hi] at hraise
      exact ⟨fun _ _ => hraise, fun _ => .inl hrej⟩
    · exact ⟨fun hrej => absurd hrej hn, fun hne => absurd herr hne⟩

/-- Settles O40: outside an attempt no byte is taken, and a frame stays with the transport. -/
theorem onlyStartOrResetLeavesATerminalState : Obligations.OnlyStartOrResetLeavesATerminalState := by
  intro i s t hdone h
  obtain rfl := eq_effect_of_exec h
  have hr := reading_eq_false_of_decDone hdone
  cases hf : i.isFrame with
  | true =>
    rw [effect_of_isFrame hf, receive_not_reading hr]
    exact .inl rfl
  | false =>
    rcases dec_effect_cases hf s with hd | hrst | hstart | ⟨hr', -⟩
    · exact .inl hd
    · exact .inr (.inr hrst)
    · exact .inr (.inl hstart)
    · exact absurd (hr.symm.trans hr') (by decide)

end Sys2Proof.Proofs
end

section
/-! SUPPORT. A frame that fires on the frame port (60_exceptions.md R209; 41_encoder.md R133, R134): a legal one is
loaded whole, an illegal one faults the run; and nothing stops the machine. -/

namespace Sys2Proof.Machine

/-- `enc_fire` looks at two host ports and at the encoder's state (00_scope.md R9). -/
theorem encFire_edgePorts_iff {e : Edge} {s u : State} : encFire (edgePorts e s) u = true ↔
    e.host.rst = false ∧ e.host.encValid = true ∧ u.enc.encState = .encIdle := by
  simp [encFire, encReady, and_assoc]

theorem effect_selectEnc_of_legal {s : State} (hs : s.enc.encState = .encIdle) {p : Ports}
    (hvalid : p.host.encValid = true) (hlen : p.host.encLen.toNat ≤ 8) :
    effect (selectEnc s.enc.encState p) s =
      noteLoaded (Frame.ofPayload p.host.encId p.host.encDataIn p.host.encLen.toNat) { s with
        enc := { encState := .encStart, encIdR := p.host.encId, encLenR := p.host.encLen, encDataR := p.host.encDataIn,
                 encIdx := 0, encCrc := 0x00, encFault := s.enc.encFault } } := by
  rw [hs, selectEnc_of_legal hvalid hlen]
  exact if_pos ⟨hs, hlen⟩

theorem effect_selectEnc_of_illegal {s : State} (hs : s.enc.encState = .encIdle) {p : Ports}
    (hvalid : p.host.encValid = true) (hlen : 8 < p.host.encLen.toNat) :
    effect (selectEnc s.enc.encState p) s = raiseEncLengthFault s := by
  rw [hs, selectEnc_of_illegal hvalid hlen]
  exact if_pos ⟨hs, hlen⟩

/-- A frame that fires on the frame port at an edge: an illegal one sets `enc_fault`, a legal one is loaded whole. -/
theorem edgeStep_of_encFire {e : Edge} {s t : State} (hfire : encFire (edgePorts e s) s = true)
    (h : edgeStep e s = .next t) :
    (8 < e.host.encLen.toNat ∧ t.enc.encFault = true) ∨
    (e.host.encLen.toNat ≤ 8 ∧
      t.enc = { encState := .encStart, encIdR := e.host.encId, encLenR := e.host.encLen, encDataR := e.host.encDataIn,
                encIdx := 0, encCrc := 0x00, encFault := s.enc.encFault } ∧
      t.hist.loaded = s.hist.loaded ++ [Frame.ofPayload e.host.encId e.host.encDataIn e.host.encLen.toNat]) := by
  obtain ⟨hr, hvalid, hidle⟩ := encFire_edgePorts_iff.mp hfire
  obtain ⟨-, -, hview, -⟩ := edgeStep_views hr h
  rw [← edgePorts_host (s := s) e] at hvalid ⊢
  rcases Nat.lt_or_ge 8 (edgePorts e s).host.encLen.toNat with hlen | hlen
  · rw [effect_selectEnc_of_illegal hidle hvalid hlen] at hview
    exact .inl ⟨hlen, congrArg Enc.encFault (enc_eq_of_encView hview)⟩
  · rw [effect_selectEnc_of_legal hidle hvalid hlen] at hview
    exact .inr ⟨hlen, enc_eq_of_encView hview, congrArg (fun v => v.2.1) hview⟩

/-- In no state of a run that is not faulted is `enc_fault` set. -/
theorem encFault_of_not_runFaulted {n j : Nat} {s t : State} (h : ¬ RunFaulted n s) (hj : j ≤ n)
    (ht : Host.Core.run Sys2Proof.core j s = .next t) : t.enc.encFault = false :=
  Bool.eq_false_of_not_eq_true fun hf => h ⟨j, hj, t, ht, hf⟩

/-- A run goes on by the step from its last state. -/
theorem run_snoc {k : Nat} {s t u : State} (h : Host.Core.run Sys2Proof.core k s = .next t) (hu : step t = .next u) :
    Host.Core.run Sys2Proof.core (k + 1) s = .next u :=
  (run_add k 1 h).trans (run_succ hu 0)

end Sys2Proof.Machine

namespace Sys2Proof.Proofs

open Machine

/-- Settles O47: an illegal length would set `enc_fault` in the state after the step, so the length is legal, and the
operation that fires is the load. -/
theorem anUnfaultedRunLosesNoFrame : Obligations.AnUnfaultedRunLosesNoFrame := by
  intro v v' k s e hrun hnot hstep hfire
  obtain ⟨t, ht⟩ := exists_step_eq_next s
  have hbefore := encFault_of_not_runFaulted hnot (Nat.le_succ k) hrun
  have hafter := encFault_of_not_runFaulted hnot (Nat.le_refl _) (run_snoc hrun ht)
  rcases edgeStep_of_encFire hfire (hstep.symm.trans ht) with ⟨-, hfault⟩ | ⟨hlen, henc, hloaded⟩
  · exact absurd (hafter.symm.trans hfault) (by decide)
  · exact ⟨hlen, t, ht, by rw [henc, ← hbefore], hloaded⟩

/-- Settles O45: an operation answers its effect, and a step is an edge, a reception or a change of the environment. -/
theorem everyStepGoesOn : Obligations.EveryStepGoesOn := ⟨fun i s => ⟨_, exec_eq_next i s⟩, exists_step_eq_next⟩

end Sys2Proof.Proofs
end

section
/-! SUPPORT. Reset (70_reset_and_hazards.md R230 to R233, R247, R248): what fires and what the transport counts at a
reset edge, and which instructions move `enc_fault`. -/

namespace Sys2Proof.Machine

/-! #### A reset edge -/

/-- No handshake fires while `rst = 1`, whatever the other ports carry (00_scope.md R9). -/
theorem no_fire_of_rst {e : Edge} (hr : e.host.rst = true) (s : State) :
    rxFire (edgePorts e s) s = false ∧ txFire (edgePorts e s) s = false ∧ encFire (edgePorts e s) s = false := by
  simp [rxFire, txFire, encFire, hr]

/-- At a reset edge the two streams move only as the transport counts (70_reset_and_hazards.md R247), and nothing has
fired on `tx`. -/
theorem transport_of_rst {e : Edge} (hr : e.host.rst = true) (s : State) :
    (e.resetGives = false → (transport e s).env.rxQueue = s.env.rxQueue) ∧
      (e.resetTakes = false → (transport e s).env.txLine = s.env.txLine) ∧
      (transport e s).env.txSent = s.env.txSent := by
  obtain ⟨-, htx, -⟩ := no_fire_of_rst hr s
  refine ⟨fun hgives => ?_, fun htakes => ?_, ?_⟩
  · simp [transportGives, hr, hgives]
  · simp [transportTakes, hr, htakes]
  · simp [htx]

/-! #### The sticky flag -/

/-- No instruction of `DEC`, not even a frame, touches the registers of `ENC`. -/
theorem enc_effect_of_unit_dec {i : Instr} (hu : i.unit = .dec) (s : State) : (effect i s).enc = s.enc := by
  cases hf : i.isFrame with
  | false =>
    obtain ⟨-, he, -⟩ := effect_of_unit_dec hu hf s
    exact he
  | true =>
    rw [effect_of_isFrame hf]
    obtain ⟨-, he, -⟩ := receive_frame (encode i) s
    exact he

/-- ENC.LOAD_FAULT sets `enc_fault` under its guard and never clears it (60_exceptions.md R209). -/
theorem encFault_effect_encLoadFault_iff (len : Byte) (s : State) :
    (effect (.encLoadFault len) s).enc.encFault = true ↔
      s.enc.encFault = true ∨ s.enc.encState = .encIdle ∧ 8 < len.toNat := by
  by_cases hguard : s.enc.encState = .encIdle ∧ 8 < len.toNat
  · have hraise : effect (.encLoadFault len) s = raiseEncLengthFault s := if_pos hguard
    rw [hraise]
    exact ⟨fun _ => .inr hguard, fun _ => rfl⟩
  · have hself : effect (.encLoadFault len) s = s := if_neg hguard
    rw [hself, or_iff_left hguard]

/-- Every instruction but RST and ENC.LOAD_FAULT leaves `enc_fault` alone. -/
theorem encFault_effect_of_ne {i : Instr} (hrst : i ≠ .rst) (hfault : ∀ len, i ≠ .encLoadFault len) (s : State) :
    (effect i s).enc.encFault = s.enc.encFault := by
  cases hu : i.unit with
  | all => exact absurd (eq_rst_of_unit_all hu) hrst
  | crcu =>
    obtain ⟨he, -⟩ := effect_of_unit_crcu hu s
    rw [he]
  | enc =>
    match i, hu with
    | .encWait, _ | .encIdle, _ => rfl
    | .encLoadFault len, _ => exact absurd rfl (hfault len)
    | .encLoad _ _ _, _ | .encTxStart, _ | .encTxId, _ | .encTxLen, _ | .encTxData, _ | .encTxCrc, _ =>
      exact apply_ite_eq (fun t => t.enc.encFault) rfl rfl
  | dec => rw [enc_effect_of_unit_dec hu]

end Sys2Proof.Machine

namespace Sys2Proof.Proofs

open Machine

/-- Settles O38: RST clears the flag, ENC.LOAD_FAULT sets it under its guard, and no other instruction moves it. -/
theorem encFaultIsStickyUntilReset : Obligations.EncFaultIsStickyUntilReset := by
  intro i s t h
  obtain rfl := eq_effect_of_exec h
  by_cases hrst : i = .rst
  · subst hrst
    exact ⟨nofun, fun ⟨hne, _⟩ => absurd rfl hne⟩
  · by_cases hload : ∃ len, i = .encLoadFault len
    · obtain ⟨len, rfl⟩ := hload
      simp [encFault_effect_encLoadFault_iff]
    · rw [encFault_effect_of_ne hrst (not_exists.mp hload)]
      exact ⟨fun hf => ⟨hrst, .inl hf⟩, fun ⟨_, hor⟩ => hor.resolve_right fun ⟨len, hi, _⟩ => hload ⟨len, hi⟩⟩

/-- Settles O23: a reset edge is the transport's side and then RST, which keeps the environment alone. -/
theorem rstResetsEveryRegisterAndOverrides : Obligations.RstResetsEveryRegisterAndOverrides := by
  refine ⟨fun _ => rfl, fun s e rest hstims hr => ?_⟩
  obtain ⟨hrx, htx, henc⟩ := no_fire_of_rst hr s
  have hstep : step s = .next (effRst (transport e (withStims rest s))) :=
    (step_edge hstims).trans (edgeStep_of_rst hr _)
  exact ⟨hrx, htx, henc, _, hstep, rfl, rfl, rfl, rfl, transport_of_rst hr (withStims rest s)⟩

end Sys2Proof.Proofs
end
